-- ==== Sys2Proof/Word.lean ====
section
/-! DEFINITION. The widths of the PcInt dispatch core (00_scope.md R10, R11, R15): bytes, command words, and the index types
of groups and bit positions. -/

namespace Sys2Proof

/-- A register or a mask of a group: 8 bits (R10, R53). -/
abbrev Byte := BitVec 8

/-- A command word (30_encoding.md R70). -/
abbrev CmdWord := BitVec 32

/-- A logical pin identifier, 0 to 255 (00_scope.md R11). -/
abbrev PinId := BitVec 8

/-- A group index as the two bits of the GRP field name it (30_encoding.md R75). Which of the four exist is the
configuration's (`Platform.hasGroup`, 00_scope.md R9). -/
abbrev GroupIx := Fin 4

/-- A bit position of a group (00_scope.md R10). -/
abbrev BitIx := Fin 8

end Sys2Proof
end

