-- ==== Sys2Proof/Syntax.lean ====
section
/-! DEFINITION. The nine commands of spec/opcode_table.json (30_encoding.md R73) and the operands that stand beside a
command word (R70). -/

namespace Sys2Proof

/-- A callback reference: an opaque token, with equality only (00_scope.md R13). Numbering the tokens is the model's
(log 8). -/
structure FnRef where
  token : Nat
  deriving DecidableEq, Repr

/-- A callback argument: an opaque token, with equality only (00_scope.md R13; log 8). -/
structure Arg where
  token : Nat
  deriving DecidableEq, Repr

/-- The pair that a callback slot holds (10_state.md R22). -/
structure Callback where
  fn : FnRef
  arg : Arg
  deriving DecidableEq, Repr

/-- The MODE field of ATTACH (30_encoding.md R74): the three interest modes of 00_scope.md R14, and `mode0` for the
encoding `00`, which names none of them (40_registration.md R108). -/
inductive ModeField where
  | mode0
  | change
  | falling
  | rising
  deriving DecidableEq, Repr

/-- The four agents (00_scope.md R4). The sequencer issues no command (10_state.md R34). -/
inductive Agent where
  | mainline
  | pinEnvironment
  | sequencer
  | callback
  deriving DecidableEq, Repr

/-- The encoded commands, one constructor for each row of the opcode table. ATTACH's FN and ARG are not encoded in the
word (30_encoding.md R70): they stand on the command port, in State. -/
inductive Instr where
  | attach (pin : PinId) (mode : ModeField)
  | detach (pin : PinId)
  | enable (pin : PinId)
  | disable (pin : PinId)
  | csenter
  | csexit
  | setgie (e : Bool)
  | pinwrite (g : GroupIx) (v : Byte)
  | cbret
  deriving DecidableEq, Repr

end Sys2Proof
end

