-- ==== Sys2Proof/Config.lean ====
section
/-! DEFINITION. The configuration of the block (00_scope.md section 4, 20_memory.md R51) and the free values, which
nothing in Lean can evaluate. -/

namespace Sys2Proof

/-- One entry of the Pin Locator: pin `pin` is bit position `bit` of group `group` (00_scope.md R12). -/
structure PinEntry where
  pin : PinId
  group : GroupIx
  bit : BitIx
  deriving DecidableEq, Repr, Inhabited

/-- The parameters a model takes (00_scope.md R9, R12; 20_memory.md R51). They never change over the life of the block. -/
structure Platform where
  /-- The highest group index, `N_GROUPS - 1`: so `1 ≤ N_GROUPS ≤ 4` (R9). -/
  lastGroup : GroupIx
  /-- The Pin Locator as a table; a pin it does not list is unresolved (R12). -/
  pins : List PinEntry
  /-- `ADDR_GRPEN`, by group (R51). -/
  addrGrpen : Vector Nat 4
  /-- `ADDR_MASK`, by group (R51). -/
  addrMask : Vector Nat 4
  deriving DecidableEq, Repr, Inhabited

/-- `N_GROUPS` (00_scope.md R9). -/
def Platform.nGroups (c : Platform) : Nat := c.lastGroup.val + 1

/-- Group `g` exists: `g < N_GROUPS` (00_scope.md R9, 10_state.md R21). -/
def Platform.hasGroup (c : Platform) (g : GroupIx) : Bool := decide (g.val < c.nGroups)

namespace Config

/-- The configuration of the machine at hand (00_scope.md R9, R12; 20_memory.md R51). No value: the spec leaves each of
its parts open (92_eei_decisions.md D2, D3, D10; log 7). -/
opaque platform : Platform

/-- FREE VALUE. What the environment drives on a group's pins at reset (10_state.md R29, R42; D34; log 6). -/
opaque liveAtReset : GroupIx → Byte

/-- FREE VALUE. The n-th draw `p` of ATTACH and ENABLE: whether a pin changed inside the command (20_memory.md R58,
40_registration.md R103, R118; D35; log 5). -/
opaque midCommandChange : Nat → Bool

/-- FREE VALUE. The group that the n-th free choice among several takeable groups looks at first (60_exceptions.md R207;
D14; log 4). -/
opaque groupOrder : Nat → GroupIx

end Config

end Sys2Proof
end

