-- ==== Sys2Proof/WellFormed.lean ====
section
/-! DEFINITION. What is well formed: an instruction against a platform, and a platform. The ranges of an instruction's
other fields are in the types of its constructors; the well-formedness of a command WORD (30_encoding.md R77) is
`OpcodeRow.admits` of Decode.lean. -/

namespace Sys2Proof

/-- The instruction names no group that the platform lacks (30_encoding.md R82; GRP is the one field whose legal values
depend on the platform, R75). -/
def Instr.wellFormed (c : Platform) : Instr → Bool
  | .attach _ _ => true
  | .detach _ => true
  | .enable _ => true
  | .disable _ => true
  | .csenter => true
  | .csexit => true
  | .setgie _ => true
  | .pinwrite g _ => c.hasGroup g
  | .cbret => true

/-- The groups that exist, in rising order (10_state.md R21). -/
def Platform.groupList (c : Platform) : List GroupIx := ([0, 1, 2, 3] : List GroupIx).filter c.hasGroup

/-- The Pin Locator is a function into the groups that exist: no pin is listed twice, and no entry names a group that the
platform lacks (00_scope.md R12). -/
def Platform.locatorOk (c : Platform) : Bool :=
  decide ((c.pins.map PinEntry.pin).Nodup) && c.pins.all (fun e => c.hasGroup e.group)

/-- The requirement of 20_memory.md R51 on the register addresses: the MASK addresses differ from each other and from
every GRPEN address. -/
def Platform.addressesOk (c : Platform) : Bool :=
  decide ((c.groupList.map (fun g => c.addrMask.get g)).Nodup) &&
  c.groupList.all (fun g => c.groupList.all (fun h => decide (c.addrMask.get g ≠ c.addrGrpen.get h)))

/-- A platform that meets 00_scope.md R12 and 20_memory.md R51. -/
def Platform.wellFormed (c : Platform) : Bool := c.locatorOk && c.addressesOk

end Sys2Proof
end

