-- ==== Sys2Proof/Decode.lean ====
section
/-! DEFINITION. The decoder and the encoder of the command word (30_encoding.md sections 1 to 3), and the 4-byte form in
which a transport carries it (20_memory.md R53, 30_encoding.md R83). -/

namespace Sys2Proof

/-- Why a word is reserved (30_encoding.md R80, R81). -/
inductive Reserved where
  /-- No command has this opcode (R80). -/
  | rsvOpcode
  /-- A must-be-zero bit of the opcode's format is 1 (R81). -/
  | rsvBits
  deriving DecidableEq, Repr

/-- What a word decodes to (30_encoding.md R78, R79). -/
inductive Decoded where
  | command (i : Instr)
  | reserved (k : Reserved)
  deriving DecidableEq, Repr

/-- The value of the MODE field (30_encoding.md R74). -/
def ModeField.ofBits (m : BitVec 2) : ModeField :=
  if m = 0b01#2 then .change else if m = 0b10#2 then .falling else if m = 0b11#2 then .rising else .mode0

/-- The MODE field of a mode (30_encoding.md R74). -/
def ModeField.toBits : ModeField → BitVec 2
  | .mode0 => 0b00#2
  | .change => 0b01#2
  | .falling => 0b10#2
  | .rising => 0b11#2

/-- The fields of a command word (30_encoding.md R71). -/
def opField (w : CmdWord) : BitVec 4 := w.extractLsb' 28 4
def modeField (w : CmdWord) : BitVec 2 := w.extractLsb' 26 2
def grpField (w : CmdWord) : BitVec 2 := w.extractLsb' 24 2
def pinField (w : CmdWord) : PinId := w.extractLsb' 16 8
def valField (w : CmdWord) : Byte := w.extractLsb' 0 8

/-- A GRP field as a group index (30_encoding.md R75). -/
def groupOfBits (b : BitVec 2) : GroupIx := b.toFin

/-- `i` if the bits of `w` under `zeros` are all 0, else reserved (30_encoding.md R81). -/
def checkZeros (w zeros : CmdWord) (i : Instr) : Decoded :=
  if w &&& zeros = 0#32 then .command i else .reserved .rsvBits

/-- `decode` (30_encoding.md R78), total on every 32-bit word. -/
def decode (w : CmdWord) : Decoded :=
  match (opField w).toNat with
  | 0x1 => checkZeros w 0x0300FFFF#32 (.attach (pinField w) (ModeField.ofBits (modeField w)))
  | 0x2 => checkZeros w 0x0F00FFFF#32 (.detach (pinField w))
  | 0x3 => checkZeros w 0x0F00FFFF#32 (.enable (pinField w))
  | 0x4 => checkZeros w 0x0F00FFFF#32 (.disable (pinField w))
  | 0x5 => checkZeros w 0x0FFFFFFF#32 .csenter
  | 0x6 => checkZeros w 0x0FFFFFFF#32 .csexit
  | 0x7 => checkZeros w 0x0FFFFFFE#32 (.setgie (w.getLsbD 0))
  | 0x8 => checkZeros w 0x0CFFFF00#32 (.pinwrite (groupOfBits (grpField w)) (valField w))
  | 0x9 => checkZeros w 0x0FFFFFFF#32 .cbret
  | _ => .reserved .rsvOpcode

/-- The word of an instruction, field by field (30_encoding.md R71, R77). -/
def encode : Instr → CmdWord
  | .attach pin mode => 0x1#4 ++ mode.toBits ++ 0#2 ++ pin ++ 0#16
  | .detach pin => 0x2#4 ++ 0#4 ++ pin ++ 0#16
  | .enable pin => 0x3#4 ++ 0#4 ++ pin ++ 0#16
  | .disable pin => 0x4#4 ++ 0#4 ++ pin ++ 0#16
  | .csenter => 0x50000000#32
  | .csexit => 0x60000000#32
  | .setgie e => 0x7#4 ++ 0#27 ++ BitVec.ofBool e
  | .pinwrite g v => 0x8#4 ++ 0#2 ++ BitVec.ofFin (w := 2) g ++ 0#16 ++ v
  | .cbret => 0x90000000#32

/-- A row of the table of 30_encoding.md R77. -/
structure OpcodeRow where
  mask : CmdWord
  pattern : CmdWord
  deriving DecidableEq, Repr

/-- `w` is well-formed for the row's opcode (30_encoding.md R77). -/
def OpcodeRow.admits (r : OpcodeRow) (w : CmdWord) : Bool := w &&& r.mask == r.pattern

/-- The row of an instruction (30_encoding.md R77). -/
def Instr.row : Instr → OpcodeRow
  | .attach _ _ => ⟨0xF300FFFF#32, 0x10000000#32⟩
  | .detach _ => ⟨0xFF00FFFF#32, 0x20000000#32⟩
  | .enable _ => ⟨0xFF00FFFF#32, 0x30000000#32⟩
  | .disable _ => ⟨0xFF00FFFF#32, 0x40000000#32⟩
  | .csenter => ⟨0xFFFFFFFF#32, 0x50000000#32⟩
  | .csexit => ⟨0xFFFFFFFF#32, 0x60000000#32⟩
  | .setgie _ => ⟨0xFFFFFFFE#32, 0x70000000#32⟩
  | .pinwrite _ _ => ⟨0xFCFFFF00#32, 0x80000000#32⟩
  | .cbret => ⟨0xFFFFFFFF#32, 0x90000000#32⟩

/-- The nine rows of the table of 30_encoding.md R77, in its order. -/
def opcodeTable : List OpcodeRow :=
  [(Instr.attach 0 .mode0).row, (Instr.detach 0).row, (Instr.enable 0).row, (Instr.disable 0).row, Instr.csenter.row,
    Instr.csexit.row, (Instr.setgie false).row, (Instr.pinwrite 0 0).row, Instr.cbret.row]

/-- The word of four bytes, the lowest address (or the first sent) in bits 7:0 (20_memory.md R53). -/
def wordOfBytes (b0 b1 b2 b3 : Byte) : CmdWord := b3 ++ b2 ++ b1 ++ b0

/-- The four bytes of a word in the order a transport carries them (20_memory.md R53). -/
def bytesOfWord (w : CmdWord) : List Byte :=
  [w.extractLsb' 0 8, w.extractLsb' 8 8, w.extractLsb' 16 8, w.extractLsb' 24 8]

/-- What the decoder reads from bytes: a command word and the bytes after it, or too few bytes for one (30_encoding.md
R83: a decoder always consumes 4). -/
inductive ByteDecode where
  | word (d : Decoded) (rest : List Byte)
  | tooShort
  deriving DecidableEq, Repr

/-- Decoding from bytes (30_encoding.md R83). -/
def decodeBytes : List Byte → ByteDecode
  | b0 :: b1 :: b2 :: b3 :: rest => .word (decode (wordOfBytes b0 b1 b2 b3)) rest
  | _ => .tooShort

/-- The bytes of an instruction (20_memory.md R53, 30_encoding.md R83). -/
def encodeBytes (i : Instr) : List Byte := bytesOfWord (encode i)

/-- The word whose `nbits` low bits are those of `w` and whose other bits are 0. -/
def tableWord (nbits w : Nat) : CmdWord := BitVec.ofNat 32 (w % 2 ^ nbits)

/-- The instruction the decoder reads from a row's word, laid out as the transport's four bytes. -/
def decodeTableWord (nbits w : Nat) : Option Instr :=
  match decodeBytes (bytesOfWord (tableWord nbits w)) with
  | .word (.command i) _ => some i
  | .word (.reserved _) _ => none
  | .tooShort => none

end Sys2Proof
end

