-- ==== Sys2Proof/Machine/State.lean ====
section
/-! DEFINITION. The state of the block (10_state.md R20), the reasons its steps stop (60_exceptions.md R201, R202), and
the state right after reset (R42, 70_reset_and_hazards.md R240). -/

namespace Sys2Proof.Machine

/-- Why the block faulted (60_exceptions.md R201), with what the rule says is recorded. -/
inductive FaultReason where
  /-- CSEXIT with no section open (41_critical_section.md R145); the issuing agent is recorded. -/
  | csUnderflow (agent : Agent)
  /-- CBRET or RETI at another depth of CSSTACK than TAKE found (R203); the group of `seq` is recorded. -/
  | csUnbalanced (g : GroupIx)
  deriving DecidableEq, Repr

/-- The code of a fault reason (60_exceptions.md R201): a label, which no register holds. -/
def FaultReason.code : FaultReason → Nat
  | .csUnderflow _ => 1
  | .csUnbalanced _ => 2

/-- Why the block refused (60_exceptions.md R202). -/
inductive RefuseReason where
  /-- A word that decodes to `Reserved(..)` (30_encoding.md R80, R81). -/
  | reservedEncoding
  /-- PINWRITE to a group that does not exist (30_encoding.md R82). -/
  | noSuchGroup
  /-- A command from an agent that 30_encoding.md R73 does not list for it (R82, 41_critical_section.md R149). -/
  | wrongAgent
  deriving DecidableEq, Repr

/-- Why `step` answers a fault. -/
inductive Fault where
  /-- Raised by `step` in a state whose sticky FAULT mark is set: no agent has a step (10_state.md R36, log 10). Safe: the
  spec gives no step here. -/
  | raised (r : FaultReason)
  deriving DecidableEq, Repr

/-- Why `step` answers a refusal. -/
inductive Refusal where
  /-- Raised by `exec` for an instruction without a meaning; no arm does. Safe. -/
  | notModelled (mnemonic : String)
  /-- Raised by `step` in a state whose sticky REFUSED mark is set: no agent has a step (10_state.md R36, log 10). Safe: the
  spec gives no step here. -/
  | stopped (r : RefuseReason)
  deriving DecidableEq, Repr

/-- One group's record in the Group State table (10_state.md R20 to R25). -/
structure GroupState where
  /-- The callback table; `none` is an empty slot (R22). -/
  slot : Vector (Option Callback) 8
  /-- The last observed live value (R23). -/
  state : Byte
  /-- `risingMask` (R24). -/
  rise : Byte
  /-- `fallingMask` (R25). -/
  fall : Byte
  deriving DecidableEq, Repr

/-- The dispatch sequencer (10_state.md R33). -/
inductive Seq where
  /-- Mainline context; no dispatch runs. -/
  | idle
  /-- The interrupt is taken and not yet sampled. -/
  | entered (g : GroupIx) (saved : Bool) (d : Nat)
  /-- The next bit to examine is `i`, `0 ≤ i ≤ 8`. -/
  | invoke (g : GroupIx) (saved : Bool) (d : Nat) (trig lvl : Byte) (i : Fin 9)
  /-- The callback for bit `i` is running. -/
  | inCallback (g : GroupIx) (saved : Bool) (d : Nat) (trig lvl : Byte) (i : BitIx)
  deriving DecidableEq, Repr

/-- One callback invocation (10_state.md R35, 30_encoding.md R85). -/
structure CallEvent where
  g : GroupIx
  b : BitIx
  fn : FnRef
  arg : Arg
  level : Bool
  deriving DecidableEq, Repr

/-- A command as its agent presents it: the word and ATTACH's side operands (30_encoding.md R70). -/
structure Command where
  word : CmdWord
  fn : Option FnRef
  arg : Arg
  deriving DecidableEq, Repr

/-- Whose step comes next (00_scope.md R18; log 1). The sequencer's turn names the group that a TAKE takes (60_exceptions.md
R207). -/
inductive Turn where
  | mainline
  | pinEnvironment
  | callback
  | sequencer (g : GroupIx)
  deriving DecidableEq, Repr

/-- The state of the block, the command port, and what the outside still holds for it. -/
structure State where
  /-- The configuration, constant (00_scope.md section 4; log 7). -/
  cfg : Platform
  /-- `G`, the Group State table (10_state.md R21). -/
  groups : Vector GroupState 4
  /-- `MASK`, the per-group mask registers (R27). -/
  mask : Vector Byte 4
  /-- `GRPEN`, the group-enable register: bit `g` is group `g`'s (R28). -/
  grpen : Byte
  /-- `LIVE`, the per-group live registers (R29). -/
  live : Vector Byte 4
  /-- `PEND`, the latched requests (R30). -/
  pend : Vector Bool 4
  /-- `GIE`, the global interrupt enable flag (R31). -/
  gie : Bool
  /-- `CSSTACK`, the saved GIE values of the open critical sections, innermost first (R32). -/
  csStack : List Bool
  /-- The dispatch sequencer (R33). -/
  seq : Seq
  /-- `TRACE`, the Call events emitted, oldest first (R35). -/
  trace : List CallEvent
  /-- `FAULT`, sticky (R36). -/
  fault : Option FaultReason
  /-- `REFUSED`, sticky (R36). -/
  refused : Option RefuseReason
  /-- Command port: the agent that issued the command now executing (30_encoding.md R73; log 13). -/
  issuer : Agent
  /-- Command port: `FN`, ATTACH's callback operand, `none` for null (30_encoding.md R70). -/
  portFn : Option FnRef
  /-- Command port: `ARG`, ATTACH's argument operand (30_encoding.md R70). -/
  portArg : Arg
  /-- The model's: the commands the mainline is still to issue (log 1). -/
  mainlineCmds : List Command
  /-- The model's: the commands the running callback is still to issue (log 1). -/
  callbackCmds : List Command
  /-- The model's: the commands the pin environment is still to issue (log 1). -/
  pinCmds : List Command
  /-- The model's: the interleaving still to come (log 1). -/
  turns : List Turn
  /-- The model's: how many free draws ATTACH and ENABLE have taken (log 5). -/
  draws : Nat
  /-- The model's: how many free choices of a group have been made (log 4). -/
  picks : Nat
  deriving DecidableEq, Repr

/-- A group's record at reset (10_state.md R42). -/
def GroupState.reset : GroupState :=
  { slot := Vector.replicate 8 none, state := 0x00#8, rise := 0x00#8, fall := 0x00#8 }

/-- The state right after reset on a platform whose environment drives `live` (10_state.md R42, 70_reset_and_hazards.md
R240). Nothing is placed on the port and nothing is scheduled (log 12, log 13). -/
def State.powerOn (cfg : Platform) (live : Vector Byte 4) : State :=
  { cfg := cfg
    groups := Vector.replicate 4 GroupState.reset
    mask := Vector.replicate 4 0x00#8
    grpen := 0x00#8
    live := live
    pend := Vector.replicate 4 false
    gie := false
    csStack := []
    seq := .idle
    trace := []
    fault := none
    refused := none
    issuer := .mainline
    portFn := none
    portArg := ⟨0⟩
    mainlineCmds := []
    callbackCmds := []
    pinCmds := []
    turns := []
    draws := 0
    picks := 0 }

/-- The machine right after reset (70_reset_and_hazards.md R240): the platform is uninterpreted and LIVE is the
environment's draw (log 6, log 7). -/
def State.reset : State :=
  State.powerOn Config.platform
    #v[Config.liveAtReset 0, Config.liveAtReset 1, Config.liveAtReset 2, Config.liveAtReset 3]

end Sys2Proof.Machine
end

