-- ==== Sys2Proof/Machine/Operands.lean ====
section
/-! DEFINITION. The operand forms: bits of a byte (00_scope.md R15, R16), the mode of ATTACH (40_registration.md R103), the
pin operand (R100), register names and their addresses (20_memory.md R50, R51). -/

namespace Sys2Proof.Machine

/-- `v[i]` (00_scope.md R15). -/
def bitAt (v : Byte) (i : BitIx) : Bool := v.getLsbD i.val

/-- `bit(i)` (00_scope.md R16). -/
def bitMask (i : BitIx) : Byte := 1#8 <<< i.val

/-- `v with [i] <- x` (00_scope.md R16). -/
def setBit (v : Byte) (i : BitIx) (x : Bool) : Byte := if x then v ||| bitMask i else v &&& ~~~(bitMask i)

/-- The mode is RISING or CHANGE (40_registration.md R103). -/
def wantsRise : ModeField → Bool
  | .rising => true
  | .change => true
  | .falling => false
  | .mode0 => false

/-- The mode is FALLING or CHANGE (40_registration.md R103). -/
def wantsFall : ModeField → Bool
  | .falling => true
  | .change => true
  | .rising => false
  | .mode0 => false

/-- `locate` on a platform (00_scope.md R12): the listed place of the pin, if its group exists. -/
def locateOn (c : Platform) (pin : PinId) : Option (GroupIx × BitIx) :=
  match c.pins.find? (fun e => e.pin == pin) with
  | none => none
  | some e => if c.hasGroup e.group then some (e.group, e.bit) else none

/-- The pin operand of a registration command, resolved (40_registration.md R100). -/
def State.locate (s : State) (pin : PinId) : Option (GroupIx × BitIx) := locateOn s.cfg pin

/-- The bit of GRPEN that is group `g`'s (10_state.md R28, D29). -/
def enableBit (g : GroupIx) : BitIx := ⟨g.val, Nat.lt_of_lt_of_le g.isLt (by decide)⟩

/-- The bits of GRPEN that exist, `0 .. N_GROUPS - 1` (10_state.md R28). -/
def grpenImplemented (c : Platform) : Byte := BitVec.ofNat 8 (2 ^ c.nGroups - 1)

/-- The registers of the register space, by name (20_memory.md R50; 00_scope.md R17). -/
inductive Reg where
  | grpen
  | mask (g : GroupIx)
  | live (g : GroupIx)
  deriving DecidableEq, Repr

/-- The register at an address: the register map of 20_memory.md R51 and 60_exceptions.md R216. The live registers have
no address; two groups may share the GRPEN address. No command uses an address (log 14). -/
def regAt (c : Platform) (a : Nat) : Option Reg :=
  if c.groupList.any (fun g => c.addrGrpen.get g == a) then some .grpen
  else (c.groupList.find? (fun g => c.addrMask.get g == a)).map Reg.mask

end Sys2Proof.Machine
end

