-- ==== Sys2Proof/Machine/Flags.lean ====
section
/-! DEFINITION. The computations of the two detectors of 42_dispatch.md: the request detector, which sets PEND, and the
dispatch edge detector, which gives the trigger set. -/

namespace Sys2Proof.Machine

/-- The request detector: an enabled bit changed (42_dispatch.md R160, R163). -/
def requestDetected (old new mask : Byte) : Bool := (old ^^^ new) &&& mask != 0x00#8

/-- Step 2 of the Dispatch Routine (42_dispatch.md R164). -/
def changedBits (observed new : Byte) : Byte := observed ^^^ new

/-- Step 3 of the Dispatch Routine (42_dispatch.md R164). -/
def qualifyingBits (rise fall new : Byte) : Byte := (rise &&& new) ||| (fall &&& ~~~new)

/-- Step 4 of the Dispatch Routine: the trigger set. The mask register does not filter it (42_dispatch.md R164, R170; D24). -/
def triggerBits (g : GroupState) (new : Byte) : Byte :=
  changedBits g.state new &&& qualifyingBits g.rise g.fall new

end Sys2Proof.Machine
end

