-- ==== Sys2Proof/Machine/Ops.lean ====
section
/-! DEFINITION. The named operations over the registers and the Group State table, the fault and refusal marks, the
critical section, and the entry into the interrupt (TAKE) and the return from it (RETI). -/

namespace Sys2Proof.Machine

/-! ### Stopping -/

/-- `raise Fault(r)` (60_exceptions.md R201): the first fault stays. -/
def State.raise (s : State) (r : FaultReason) : State :=
  { s with fault := match s.fault with | none => some r | some q => some q }

/-- `refuse(r)` (60_exceptions.md R202): the first refusal stays. -/
def State.refuse (s : State) (r : RefuseReason) : State :=
  { s with refused := match s.refused with | none => some r | some q => some q }

/-! ### Registers and group state -/

/-- `RegRead(R)` (00_scope.md R17; 20_memory.md R55): no side effect; GRPEN's reserved bits read as 0 (10_state.md R28). -/
def State.regRead (s : State) : Reg → Byte
  | .grpen => s.grpen &&& grpenImplemented s.cfg
  | .mask g => s.mask.get g
  | .live g => s.live.get g

/-- `RegWrite(R, v)` (00_scope.md R17; 20_memory.md R55): writes to GRPEN's reserved bits are ignored (10_state.md R28). LIVE
is written by PINWRITE alone (R29). -/
def State.regWrite (s : State) (r : Reg) (v : Byte) : State :=
  match r with
  | .grpen => { s with grpen := v &&& grpenImplemented s.cfg }
  | .mask g => { s with mask := s.mask.set g v }
  | .live g => { s with live := s.live.set g v }

/-- `G[g]` (10_state.md R21). -/
def State.group (s : State) (g : GroupIx) : GroupState := s.groups.get g

/-- `G[g] <- r`. -/
def State.setGroup (s : State) (g : GroupIx) (r : GroupState) : State := { s with groups := s.groups.set g r }

/-- `G[g].slot[b]` (10_state.md R22). -/
def State.slotAt (s : State) (g : GroupIx) (b : BitIx) : Option Callback := (s.group g).slot.get b

/-- `GRPEN[g]`, as a Boolean (10_state.md R28). -/
def State.groupEnabled (s : State) (g : GroupIx) : Bool := bitAt (s.regRead .grpen) (enableBit g)

/-- `PEND[g]` (10_state.md R30). -/
def State.pending (s : State) (g : GroupIx) : Bool := s.pend.get g

/-- `G[g].slot[b] <- c` (10_state.md R22). -/
def State.putSlot (s : State) (g : GroupIx) (b : BitIx) (c : Option Callback) : State :=
  s.setGroup g { s.group g with slot := (s.group g).slot.set b c }

/-- Bit `b` of both edge masks of group `g` (10_state.md R24, R25). -/
def State.putEdges (s : State) (g : GroupIx) (b : BitIx) (r f : Bool) : State :=
  s.setGroup g { s.group g with rise := setBit (s.group g).rise b r, fall := setBit (s.group g).fall b f }

/-- `G[g].state <- G[g].state with [b] <- LIVE[g][b]`: bit `b` alone (40_registration.md R106). -/
def State.resample (s : State) (g : GroupIx) (b : BitIx) : State :=
  s.setGroup g { s.group g with state := setBit (s.group g).state b (bitAt (s.regRead (.live g)) b) }

/-- `MASK[g] <- MASK[g] with [b] <- x` (20_memory.md R56). -/
def State.putMaskBit (s : State) (g : GroupIx) (b : BitIx) (x : Bool) : State :=
  s.regWrite (.mask g) (setBit (s.regRead (.mask g)) b x)

/-- `GRPEN[g] <- x` (20_memory.md R56). -/
def State.putGroupEnable (s : State) (g : GroupIx) (x : Bool) : State :=
  s.regWrite .grpen (setBit (s.regRead .grpen) (enableBit g) x)

/-- The pin's mask bit and its group's enable bit are set (40_registration.md R103, R118). -/
def State.enablePin (s : State) (g : GroupIx) (b : BitIx) : State := (s.putMaskBit g b true).putGroupEnable g true

/-- The pin's mask bit is cleared, and the group's enable bit with it when no bit of MASK[g] is then left (40_registration.md
R111, R112, R124). -/
def State.disablePin (s : State) (g : GroupIx) (b : BitIx) : State :=
  let t := s.putMaskBit g b false
  if t.regRead (.mask g) = 0x00#8 then t.putGroupEnable g false else t

/-- `PEND[g] <- PEND[g] OR p` (10_state.md R30). -/
def State.latchRequest (s : State) (g : GroupIx) (p : Bool) : State :=
  { s with pend := s.pend.set g (s.pending g || p) }

/-- `PEND[g] <- 0` (10_state.md R30). -/
def State.clearRequest (s : State) (g : GroupIx) : State := { s with pend := s.pend.set g false }

/-- `PEND[g] <- PEND[g] OR p` for a fresh free draw `p` (20_memory.md R58; log 5). -/
def State.latchDraw (s : State) (g : GroupIx) : State :=
  { s.latchRequest g (Config.midCommandChange s.draws) with draws := s.draws + 1 }

/-- `emit Call(..)` (00_scope.md R17, 10_state.md R35). -/
def State.emit (s : State) (e : CallEvent) : State := { s with trace := s.trace ++ [e] }

/-! ### Who issues a command -/

/-- The agents that 30_encoding.md R73 lists for a command. -/
def mayIssue (a : Agent) : Instr → Bool
  | .attach _ _ => a == .mainline || a == .callback
  | .detach _ => a == .mainline || a == .callback
  | .enable _ => a == .mainline || a == .callback
  | .disable _ => a == .mainline || a == .callback
  | .csenter => a == .mainline || a == .callback
  | .csexit => a == .mainline || a == .callback
  | .setgie _ => a == .mainline
  | .pinwrite _ _ => a == .pinEnvironment
  | .cbret => a == .callback

/-- The command's effect, if its issuer may issue it; else `refuse(WrongAgent)` (30_encoding.md R82; the issuer is checked
before the command's own tests, log 11). -/
def State.issued (s : State) (i : Instr) (effect : State) : State :=
  if mayIssue s.issuer i then effect else s.refuse .wrongAgent

/-! ### The critical section (41_critical_section.md) -/

/-- Opening a critical section (41_critical_section.md R141). -/
def State.enterSection (s : State) : State := { s with csStack := s.gie :: s.csStack, gie := false }

/-- Closing a critical section (41_critical_section.md R144, R145). In a dispatch GIE stays 0 whatever the section saved
(60_exceptions.md R211, 70_reset_and_hazards.md R252, 90_conflicts.md C4; DEDUCED, log 15). -/
def State.exitSection (s : State) : State :=
  match s.csStack with
  | [] => s.raise (.csUnderflow s.issuer)
  | saved :: rest => { s with gie := saved && decide (s.seq = .idle), csStack := rest }

/-! ### Entry into the interrupt and return from it (60_exceptions.md) -/

/-- TAKE for group `g` is enabled (60_exceptions.md R205). -/
def State.takeEnabled (s : State) (g : GroupIx) : Bool :=
  decide (s.seq = .idle) && s.gie && s.groupEnabled g && s.pending g && s.fault.isNone && s.refused.isNone

/-- TAKE, the entry into the interrupt of group `g` (60_exceptions.md R206). -/
def State.take (s : State) (g : GroupIx) : State :=
  { s.clearRequest g with seq := .entered g s.gie s.csStack.length, gie := false }

/-- RETI, the return from the Dispatch Routine of group `g`, entered with GIE `saved` at depth `d` (60_exceptions.md R210,
R203). -/
def State.reti (s : State) (g : GroupIx) (saved : Bool) (d : Nat) : State :=
  if s.csStack.length = d then { s with gie := saved, seq := .idle } else s.raise (.csUnbalanced g)

end Sys2Proof.Machine
end

