-- ==== Sys2Proof/Machine/CriticalSection.lean ====
section
/-! DEFINITION. The critical section and the global interrupt enable (41_critical_section.md): CSENTER, CSEXIT, SETGIE. -/

namespace Sys2Proof.Machine

/-- CSENTER (41_critical_section.md R141). -/
def execCsenter (s : State) : Host.Outcome State Fault Refusal := .next (s.issued .csenter s.enterSection)

/-- CSEXIT (41_critical_section.md R144, R145; in a dispatch GIE stays 0, log 15). -/
def execCsexit (s : State) : Host.Outcome State Fault Refusal := .next (s.issued .csexit s.exitSection)

/-- SETGIE (41_critical_section.md R147): refused in interrupt context (R149). -/
def execSetgie (e : Bool) (s : State) : Host.Outcome State Fault Refusal :=
  .next (s.issued (.setgie e) (if s.seq = .idle then { s with gie := e } else s.refuse .wrongAgent))

end Sys2Proof.Machine
end

