-- ==== Sys2Proof/Machine/DispatchRoutine.lean ====
section
/-! DEFINITION. The Dispatch Routine (42_dispatch.md sections 2 and 3): the sequencer's steps SAMPLE, INVOKE and SKIP, and
the callback's CBRET. TAKE and RETI are in Ops.lean. -/

namespace Sys2Proof.Machine

/-- SAMPLE, steps 1 to 5 of the Dispatch Routine, for a dispatch of group `g` (42_dispatch.md R164). -/
def State.sample (s : State) (g : GroupIx) (saved : Bool) (d : Nat) : State :=
  let new := s.regRead (.live g)
  { s.setGroup g { s.group g with state := new } with seq := .invoke g saved d (triggerBits (s.group g) new) new 0 }

/-- INVOKE, for a triggered bit `i` whose slot holds `c` (42_dispatch.md R166): the level is the sampled one (R169). -/
def State.invokeCallback (s : State) (g : GroupIx) (saved : Bool) (d : Nat) (trig lvl : Byte) (i : BitIx) (c : Callback) :
    State :=
  { s.emit { g := g, b := i, fn := c.fn, arg := c.arg, level := bitAt lvl i } with
    seq := .inCallback g saved d trig lvl i }

/-- SKIP (42_dispatch.md R167). -/
def State.skipBit (s : State) (g : GroupIx) (saved : Bool) (d : Nat) (trig lvl : Byte) (i : BitIx) : State :=
  { s with seq := .invoke g saved d trig lvl i.succ }

/-- The loop of the Dispatch Routine at bit `i < 8`: INVOKE for a triggered bit with a callback, else SKIP (42_dispatch.md
R166, R167). The slot is read now, not at SAMPLE (D17). -/
def State.examineBit (s : State) (g : GroupIx) (saved : Bool) (d : Nat) (trig lvl : Byte) (i : BitIx) : State :=
  match bitAt trig i, s.slotAt g i with
  | true, some c => s.invokeCallback g saved d trig lvl i c
  | true, none => s.skipBit g saved d trig lvl i
  | false, _ => s.skipBit g saved d trig lvl i

/-- The sequencer's enabled step, if it has one (30_encoding.md R84): TAKE of group `g` in mainline context
(60_exceptions.md R205), SAMPLE, INVOKE or SKIP, and RETI after bit 7 (R210). None while a callback runs. -/
def State.sequencerStep (s : State) (g : GroupIx) : Option State :=
  match s.seq with
  | .idle => if s.takeEnabled g then some (s.take g) else none
  | .entered h saved d => some (s.sample h saved d)
  | .invoke h saved d trig lvl i =>
    if lt : i.val < 8 then some (s.examineBit h saved d trig lvl ⟨i.val, lt⟩) else some (s.reti h saved d)
  | .inCallback _ _ _ _ _ _ => none

/-- CBRET while the callback of bit `i` runs (42_dispatch.md R168, 60_exceptions.md R203); no callback runs in any other
phase, so there the command has no lawful issuer (30_encoding.md R82). -/
def State.callbackReturn (s : State) : State :=
  match s.seq with
  | .inCallback g saved d trig lvl i =>
    if s.csStack.length = d then { s with seq := .invoke g saved d trig lvl i.succ } else s.raise (.csUnbalanced g)
  | .idle => s.refuse .wrongAgent
  | .entered _ _ _ => s.refuse .wrongAgent
  | .invoke _ _ _ _ _ _ => s.refuse .wrongAgent

/-- CBRET (42_dispatch.md R168). -/
def execCbret (s : State) : Host.Outcome State Fault Refusal := .next (s.issued .cbret s.callbackReturn)

end Sys2Proof.Machine
end

