-- ==== Sys2Proof/Machine/PinEnvironment.lean ====
section
/-! DEFINITION. The pin environment and the request detector (42_dispatch.md section 1): PINWRITE. -/

namespace Sys2Proof.Machine

/-- The pins of group `g` take the levels `v`, and the request detector looks at the change (42_dispatch.md R160). -/
def State.drivePins (s : State) (g : GroupIx) (v : Byte) : State :=
  (s.regWrite (.live g) v).latchRequest g (requestDetected (s.regRead (.live g)) v (s.regRead (.mask g)))

/-- PINWRITE (42_dispatch.md R160); a group that does not exist is refused (30_encoding.md R82). -/
def execPinwrite (g : GroupIx) (v : Byte) (s : State) : Host.Outcome State Fault Refusal :=
  .next (s.issued (.pinwrite g v) (if s.cfg.hasGroup g then s.drivePins g v else s.refuse .noSuchGroup))

end Sys2Proof.Machine
end

