-- ==== Sys2Proof/Machine/Registration.lean ====
section
/-! DEFINITION. The Registration Protocol (40_registration.md): ATTACH, DETACH, ENABLE, DISABLE. Each is one atomic step
(R101). -/

namespace Sys2Proof.Machine

/-- A registration command's body at its pin's place; nothing when the pin is unresolved (40_registration.md R100). -/
def State.atPin (s : State) (pin : PinId) (body : GroupIx → BitIx → State) : State :=
  match s.locate pin with
  | none => s
  | some (g, b) => body g b

/-- ATTACH at a resolved pin (40_registration.md R103); nothing when FN is null (R104). -/
def State.attachAt (s : State) (mode : ModeField) (g : GroupIx) (b : BitIx) : State :=
  match s.portFn with
  | none => s
  | some fn =>
    ((((s.putSlot g b (some { fn := fn, arg := s.portArg })).putEdges g b (wantsRise mode) (wantsFall mode)).enablePin g b).resample
      g b).latchDraw g

/-- DETACH at a resolved pin (40_registration.md R111). -/
def State.detachAt (s : State) (g : GroupIx) (b : BitIx) : State :=
  ((s.putSlot g b none).putEdges g b false false).disablePin g b

/-- ENABLE at a resolved pin (40_registration.md R118); nothing on an empty slot (R119). -/
def State.enableAt (s : State) (g : GroupIx) (b : BitIx) : State :=
  match s.slotAt g b with
  | none => s
  | some _ => ((s.enablePin g b).resample g b).latchDraw g

/-- ATTACH (40_registration.md R103; MODE 00 by R108). -/
def execAttach (pin : PinId) (mode : ModeField) (s : State) : Host.Outcome State Fault Refusal :=
  .next (s.issued (.attach pin mode) (s.atPin pin (s.attachAt mode)))

/-- DETACH (40_registration.md R111). -/
def execDetach (pin : PinId) (s : State) : Host.Outcome State Fault Refusal :=
  .next (s.issued (.detach pin) (s.atPin pin s.detachAt))

/-- ENABLE (40_registration.md R118). -/
def execEnable (pin : PinId) (s : State) : Host.Outcome State Fault Refusal :=
  .next (s.issued (.enable pin) (s.atPin pin s.enableAt))

/-- DISABLE (40_registration.md R124). -/
def execDisable (pin : PinId) (s : State) : Host.Outcome State Fault Refusal :=
  .next (s.issued (.disable pin) (s.atPin pin s.disablePin))

end Sys2Proof.Machine
end

