-- ==== Sys2Proof/Machine/Dispatch.lean ====
section
/-! DEFINITION. One arm for each command of spec/opcode_table.json. -/

namespace Sys2Proof.Machine

def exec (i : Instr) (s : State) : Host.Outcome State Fault Refusal :=
  match i with
  | .attach pin mode => Sys2Proof.Machine.execAttach pin mode s
  | .detach pin => Sys2Proof.Machine.execDetach pin s
  | .enable pin => Sys2Proof.Machine.execEnable pin s
  | .disable pin => Sys2Proof.Machine.execDisable pin s
  | .csenter => Sys2Proof.Machine.execCsenter s
  | .csexit => Sys2Proof.Machine.execCsexit s
  | .setgie e => Sys2Proof.Machine.execSetgie e s
  | .pinwrite g v => Sys2Proof.Machine.execPinwrite g v s
  | .cbret => Sys2Proof.Machine.execCbret s

end Sys2Proof.Machine
end

