-- ==== Sys2Proof/Machine/Agents.lean ====
section
/-! DEFINITION. Whose step comes next and what that agent then does (00_scope.md R4, R18; 10_state.md R34): the issuing of a
command, the sequencer's own step, one step of the block, and how a command is placed for the next step. -/

namespace Sys2Proof.Machine

/-! ### Issuing a command -/

/-- A callback is running: the callback agent may step (10_state.md R34). -/
def State.callbackRuns (s : State) : Bool :=
  match s.seq with
  | .inCallback _ _ _ _ _ _ => true
  | .idle => false
  | .entered _ _ _ => false
  | .invoke _ _ _ _ _ _ => false

/-- The command `c` of agent `a` stands on the command port (30_encoding.md R70). -/
def State.present (s : State) (a : Agent) (c : Command) : State :=
  { s with issuer := a, portFn := c.fn, portArg := c.arg }

/-- Agent `a` issues `c`: the decoded instruction runs, and a reserved word is refused (30_encoding.md R78, R80, R81). -/
def State.issue (s : State) (a : Agent) (c : Command) : Host.Outcome State Fault Refusal :=
  match decode c.word with
  | .command i => exec i (s.present a c)
  | .reserved _ => .next ((s.present a c).refuse .reservedEncoding)

/-! ### Turns -/

/-- The mainline's turn: its next command, in mainline context (10_state.md R34); while a dispatch runs the command waits
(60_exceptions.md R209; log 2). -/
def State.mainlineTurn (s : State) : Host.Outcome State Fault Refusal :=
  match s.mainlineCmds with
  | [] => .next s
  | c :: rest => if s.seq = .idle then { s with mainlineCmds := rest }.issue .mainline c else .next s

/-- The callback's turn: its next command, while a callback runs (10_state.md R34; log 2). -/
def State.callbackTurn (s : State) : Host.Outcome State Fault Refusal :=
  match s.callbackCmds with
  | [] => .next s
  | c :: rest => if s.callbackRuns then { s with callbackCmds := rest }.issue .callback c else .next s

/-- The pin environment's turn: its next command, in every phase (10_state.md R34, D35). -/
def State.pinTurn (s : State) : Host.Outcome State Fault Refusal :=
  match s.pinCmds with
  | [] => .next s
  | c :: rest => { s with pinCmds := rest }.issue .pinEnvironment c

/-- The sequencer's turn: its enabled step, if it has one (30_encoding.md R84; log 2). -/
def State.sequencerTurn (s : State) (g : GroupIx) : State :=
  match s.sequencerStep g with
  | none => s
  | some t => t

/-- The turn `t` (00_scope.md R18). -/
def State.takeTurn (s : State) : Turn → Host.Outcome State Fault Refusal
  | .mainline => s.mainlineTurn
  | .pinEnvironment => s.pinTurn
  | .callback => s.callbackTurn
  | .sequencer g => .next (s.sequencerTurn g)

/-! ### The sequencer on its own -/

/-- The first group from `p` on, counting round, whose TAKE is enabled (60_exceptions.md R207). -/
def State.firstTakeable (s : State) (p : GroupIx) : Option GroupIx :=
  ([p, p + 1, p + 2, p + 3] : List GroupIx).find? s.takeEnabled

/-- With no turn left, the sequencer takes its enabled step (70_reset_and_hazards.md R255; log 3), the group of a TAKE being
a free choice (60_exceptions.md R207; log 4); with none enabled, nothing happens. -/
def State.ownStep (s : State) : State :=
  match s.seq with
  | .idle =>
    match s.firstTakeable (Config.groupOrder s.picks) with
    | none => s
    | some g => { s.take g with picks := s.picks + 1 }
  | .entered _ _ _ => s.sequencerTurn 0
  | .invoke _ _ _ _ _ _ => s.sequencerTurn 0
  | .inCallback _ _ _ _ _ _ => s

/-! ### One step -/

/-- One step of the block. Once a fault or a refusal is recorded no agent has a step (10_state.md R36; log 10). -/
def State.advance (s : State) : Host.Outcome State Fault Refusal :=
  match s.fault, s.refused with
  | some r, _ => .fault (.raised r)
  | none, some r => .refused (.stopped r)
  | none, none =>
    match s.turns with
    | [] => .next s.ownStep
    | t :: rest => { s with turns := rest }.takeTurn t

/-! ### Placing a command (log 12) -/

/-- `c` is the mainline's next command, and it is the mainline's turn. -/
def State.placeMainline (s : State) (c : Command) : State :=
  { s with seq := .idle, mainlineCmds := c :: s.mainlineCmds, turns := .mainline :: s.turns }

/-- `c` is the running callback's next command, and it is the callback's turn. -/
def State.placeCallback (s : State) (c : Command) : State :=
  { s with callbackCmds := c :: s.callbackCmds, turns := .callback :: s.turns }

/-- `c` is the pin environment's next command, and it is the pin environment's turn. -/
def State.placePin (s : State) (c : Command) : State :=
  { s with pinCmds := c :: s.pinCmds, turns := .pinEnvironment :: s.turns }

/-- A callback is running: the one that is, or else the callback of bit 0 of a dispatch of group 0 with an empty trigger
set. -/
def State.withCallback (s : State) : State :=
  if s.callbackRuns then s else { s with seq := .inCallback 0 true s.csStack.length 0x00#8 0x00#8 0 }

/-- `c` is the next command, issued by an agent that 30_encoding.md R73 lists for its opcode and that may then step
(10_state.md R34): PINWRITE by the pin environment, CBRET by the callback, SETGIE by the mainline, and any other word by the
running callback or else by the mainline. -/
def State.placeCommand (s : State) (c : Command) : State :=
  match (opField c.word).toNat with
  | 0x7 => s.placeMainline c
  | 0x8 => s.placePin c
  | 0x9 => s.withCallback.placeCallback c
  | _ => if s.callbackRuns then s.placeCallback c else s.placeMainline c

/-- The command of a word placed without side operands of its own: ATTACH's are the callback token 0 and the argument token
0 (log 12). -/
def commandOfWord (w : CmdWord) : Command := { word := w, fn := some ⟨0⟩, arg := ⟨0⟩ }

end Sys2Proof.Machine
end

