-- ==== Sys2Proof/Machine/Step.lean ====
section
/-! DEFINITION. The machine's step, and the placing of one instruction for the next step. -/

namespace Sys2Proof.Machine

/-- One step of the block (00_scope.md R18). -/
def step (s : State) : Host.Outcome State Fault Refusal := s.advance

/-- `s` with the instruction whose bits are `w` as the command that the very next step issues: it reaches the block as the
transport's four bytes (20_memory.md R53), with an issuer that may issue it and step (log 12). -/
def State.withFetchWord (s : State) (nbits w : Nat) : State :=
  match bytesOfWord (tableWord nbits w) with
  | [b0, b1, b2, b3] => s.placeCommand (commandOfWord (wordOfBytes b0 b1 b2 b3))
  | _ => s

end Sys2Proof.Machine
end

