-- ==== Sys2Proof/Safety.lean ====
section
/-! DEFINITION. The terms in which claims about the block are stated: running states, the registration invariant, frames,
whole dispatches, balanced sections, and the renaming of callback tokens. -/

namespace Sys2Proof.Machine

/-- No fault and no refusal is recorded (10_state.md R36). -/
def State.running (s : State) : Prop := s.fault = none ∧ s.refused = none

/-- The agents that may issue the registration and critical-section commands (30_encoding.md R73). -/
def State.byProgram (s : State) : Prop := s.issuer = .mainline ∨ s.issuer = .callback

/-- The invariants of 10_state.md section 5, for every group and bit, and the reserved bits of GRPEN. -/
structure State.RegistrationInv (s : State) : Prop where
  /-- A set mask bit has a callback (R37). -/
  maskedHasSlot : ∀ g b, bitAt (s.regRead (.mask g)) b = true → s.slotAt g b ≠ none
  /-- An empty slot has no edge (R38). -/
  emptyHasNoEdge : ∀ g b, s.slotAt g b = none → bitAt (s.group g).rise b = false ∧ bitAt (s.group g).fall b = false
  /-- A group is enabled just when one of its pins is (R39). -/
  enabledIffMasked : ∀ g, s.groupEnabled g = true ↔ s.regRead (.mask g) ≠ 0x00#8
  /-- The reserved bits of GRPEN are stored as 0 (R28). -/
  grpenReserved : s.regRead .grpen = s.grpen

/-- GIE is 0 for the whole of a dispatch (60_exceptions.md R211, 90_conflicts.md C4). -/
def State.gieClearInDispatch (s : State) : Prop := s.seq ≠ .idle → s.gie = false

/-- `t` has the same bit `b` of group `g` as `s`, in every per-bit field (10_state.md R22 to R27). -/
def State.sameBit (s t : State) (g : GroupIx) (b : BitIx) : Prop :=
  t.slotAt g b = s.slotAt g b ∧ bitAt (t.group g).rise b = bitAt (s.group g).rise b ∧
  bitAt (t.group g).fall b = bitAt (s.group g).fall b ∧ bitAt (t.group g).state b = bitAt (s.group g).state b ∧
  bitAt (t.regRead (.mask g)) b = bitAt (s.regRead (.mask g)) b

/-- `t` has the same Group State, MASK, GRPEN bit and PEND of group `g` as `s`. -/
def State.sameGroup (s t : State) (g : GroupIx) : Prop :=
  t.group g = s.group g ∧ t.regRead (.mask g) = s.regRead (.mask g) ∧
  bitAt (t.regRead .grpen) (enableBit g) = bitAt (s.regRead .grpen) (enableBit g) ∧ t.pending g = s.pending g

/-- `t` differs from `s` in Group State, MASK, GRPEN, PEND and the count of draws at most, and there only at bit `b` of group
`g`: the frame of a registration command (20_memory.md R56, R64). -/
def State.registrationFrame (s t : State) (g : GroupIx) (b : BitIx) : Prop :=
  (∀ h, h ≠ g → s.sameGroup t h) ∧ (∀ c, c ≠ b → s.sameBit t g c) ∧
  (∀ i, i ≠ enableBit g → bitAt (t.regRead .grpen) i = bitAt (s.regRead .grpen) i) ∧
  t = { s with groups := t.groups, mask := t.mask, grpen := t.grpen, pend := t.pend, draws := t.draws }

/-- The pin operand of a registration command (30_encoding.md R72). -/
def pinOperand : Instr → Option PinId
  | .attach pin _ => some pin
  | .detach pin => some pin
  | .enable pin => some pin
  | .disable pin => some pin
  | .csenter => none
  | .csexit => none
  | .setgie _ => none
  | .pinwrite _ _ => none
  | .cbret => none

/-- The command that the next step issues, with its agent, if the next step issues one (10_state.md R34). -/
def State.nextIssue (s : State) : Option (Agent × Command) :=
  match s.turns with
  | .mainline :: _ => if s.seq = .idle then s.mainlineCmds.head?.map (fun c => (.mainline, c)) else none
  | .pinEnvironment :: _ => s.pinCmds.head?.map (fun c => (.pinEnvironment, c))
  | .callback :: _ => if s.callbackRuns then s.callbackCmds.head?.map (fun c => (.callback, c)) else none
  | .sequencer _ :: _ => none
  | [] => none

/-- The state on which the command `c` of agent `a` runs: the turn and the command are taken away, and the command stands on
the port. -/
def State.fetched (s : State) (a : Agent) (c : Command) : State :=
  match a with
  | .mainline => { s with turns := s.turns.tail, mainlineCmds := s.mainlineCmds.tail }.present .mainline c
  | .pinEnvironment => { s with turns := s.turns.tail, pinCmds := s.pinCmds.tail }.present .pinEnvironment c
  | .callback => { s with turns := s.turns.tail, callbackCmds := s.callbackCmds.tail }.present .callback c
  | .sequencer => s

/-! ### Runs and whole dispatches -/

/-- `n` steps, stopping at the first fault or refusal. -/
def runSteps : Nat → State → Host.Outcome State Fault Refusal
  | 0, s => .next s
  | n + 1, s =>
    match step s with
    | .next t => runSteps n t
    | .fault r => .fault r
    | .refused r => .refused r

/-- The Call events of step 6 of the Dispatch Routine for the trigger set `trig` at levels `lvl`: one for each triggered bit
with a callback, in rising bit order (42_dispatch.md R166, R176). -/
def State.dueCalls (s : State) (g : GroupIx) (trig lvl : Byte) : List CallEvent :=
  (List.finRange 8).filterMap fun i =>
    if bitAt trig i then (s.slotAt g i).map fun c => { g := g, b := i, fn := c.fn, arg := c.arg, level := bitAt lvl i } else none

/-- Turns that let the loop of a dispatch run from bit 0 to RETI with callbacks that return at once: the sequencer and the
callback in turn, once for each bit, and the sequencer. -/
def loopTurns : List Turn :=
  ((List.replicate 8 [Turn.sequencer 0, Turn.callback]).flatten) ++ [Turn.sequencer 0]

/-- A callback body that issues CBRET alone, as a command (42_dispatch.md R168). -/
def cbretCommand : Command := { word := encode .cbret, fn := none, arg := ⟨0⟩ }

/-! ### Command sequences -/

/-- The commands run one after another with nothing between them, by one issuer. -/
def State.runCommands : List Instr → State → Host.Outcome State Fault Refusal
  | [], s => .next s
  | i :: rest, s =>
    match exec i s with
    | .next t => State.runCommands rest t
    | .fault r => .fault r
    | .refused r => .refused r

/-- Registration commands and properly nested critical sections, with no SETGIE (41_critical_section.md R150). -/
inductive Balanced : List Instr → Prop where
  | nil : Balanced []
  | registration {i : Instr} {pin : PinId} {rest : List Instr} :
      pinOperand i = some pin → Balanced rest → Balanced (i :: rest)
  | nested {body rest : List Instr} :
      Balanced body → Balanced rest → Balanced (.csenter :: (body ++ .csexit :: rest))

/-! ### Renaming callback tokens -/

/-- A callback with its tokens renamed. -/
def renameCallback (f : FnRef → FnRef) (k : Arg → Arg) (c : Callback) : Callback := { fn := f c.fn, arg := k c.arg }

/-- A Call event with its tokens renamed. -/
def renameEvent (f : FnRef → FnRef) (k : Arg → Arg) (e : CallEvent) : CallEvent := { e with fn := f e.fn, arg := k e.arg }

/-- A command with its side operands renamed. -/
def renameCommand (f : FnRef → FnRef) (k : Arg → Arg) (c : Command) : Command :=
  { c with fn := c.fn.map f, arg := k c.arg }

/-- A group's record with the tokens in its slots renamed. -/
def renameGroup (f : FnRef → FnRef) (k : Arg → Arg) (g : GroupState) : GroupState :=
  { g with slot := g.slot.map (Option.map (renameCallback f k)) }

/-- The state with every callback token in it renamed. -/
def State.rename (f : FnRef → FnRef) (k : Arg → Arg) (s : State) : State :=
  { s with
    groups := s.groups.map (renameGroup f k)
    trace := s.trace.map (renameEvent f k)
    portFn := s.portFn.map f
    portArg := k s.portArg
    mainlineCmds := s.mainlineCmds.map (renameCommand f k)
    callbackCmds := s.callbackCmds.map (renameCommand f k)
    pinCmds := s.pinCmds.map (renameCommand f k) }

/-- An outcome with its next state changed by `r`. -/
def mapNext (r : State → State) : Host.Outcome State Fault Refusal → Host.Outcome State Fault Refusal
  | .next s => .next (r s)
  | .fault e => .fault e
  | .refused e => .refused e

end Sys2Proof.Machine
end

