-- ==== Sys2Proof/Certificates/Slice0/Obligations.lean ====
section
/-! DEFINITION. The statements for the provers. A free value (a draw of ATTACH or ENABLE, the choice of a group, LIVE at
reset, the platform) is an uninterpreted constant of Config, so a statement that names one holds whatever it is. -/

open Sys2Proof Sys2Proof.Machine

/-! ### Encoding -/

/-- Every instruction's word decodes to it: no bit of a field is dropped (30_encoding.md R71, R77, R78). -/
def Obligations.DecodeOfEncode : Prop := ∀ i : Instr, decode (encode i) = .command i

/-- A word that decodes to a command is that command's word, so each command has exactly one word (30_encoding.md R77,
R78). -/
def Obligations.EncodeOfDecode : Prop := ∀ (w : CmdWord) (i : Instr), decode w = .command i → encode i = w

/-- R102, R110, R117, R123: exactly these words are ATTACH, DETACH, ENABLE and DISABLE with these operands (the issuers are
`WrongIssuersAreRefused` and the four semantics below). -/
def Obligations.RegistrationCommandsHaveTheirWords : Prop :=
  ∀ (w : CmdWord) (pin : PinId) (mode : ModeField),
    (decode w = .command (.attach pin mode) ↔
      w = BitVec.ofNat 32 (0x10000000 + 0x4000000 *
        (match mode with | .mode0 => 0 | .change => 1 | .falling => 2 | .rising => 3) + 0x10000 * pin.toNat)) ∧
    (decode w = .command (.detach pin) ↔ w = BitVec.ofNat 32 (0x20000000 + 0x10000 * pin.toNat)) ∧
    (decode w = .command (.enable pin) ↔ w = BitVec.ofNat 32 (0x30000000 + 0x10000 * pin.toNat)) ∧
    (decode w = .command (.disable pin) ↔ w = BitVec.ofNat 32 (0x40000000 + 0x10000 * pin.toNat))

/-- A word decodes to a command exactly when it is well-formed for a row of the table, and then for that command's row
(30_encoding.md R77, R79). -/
def Obligations.DecodeFollowsTheOpcodeTable : Prop :=
  ∀ w : CmdWord,
    ((∃ i, decode w = .command i) ↔ ∃ r ∈ opcodeTable, r.admits w = true) ∧
    (∀ i, decode w = .command i → i.row.admits w = true)

/-- No word is well-formed for two rows of the table (30_encoding.md R77: the patterns do not overlap). -/
def Obligations.OpcodeRowsDoNotOverlap : Prop :=
  ∀ (w : CmdWord) (a b : Nat) (ra rb : OpcodeRow), opcodeTable[a]? = some ra → opcodeTable[b]? = some rb →
    ra.admits w = true → rb.admits w = true → a = b

/-- R80. An opcode 0x0 or 0xA to 0xF is reserved, and issuing such a word executes refuse(ReservedEncoding). -/
def Obligations.ReservedOpcodesAreRefused : Prop :=
  ∀ (s : State) (a : Agent) (c : Command), ((opField c.word).toNat = 0 ∨ 0xA ≤ (opField c.word).toNat) →
    decode c.word = .reserved .rsvOpcode ∧
    s.issue a c = .next { s.present a c with refused := some (s.refused.getD .reservedEncoding) }

/-- R81. A word with a defined opcode and a 1 in a must-be-zero bit of its row is reserved, and issuing it executes
refuse(ReservedEncoding). -/
def Obligations.NonZeroReservedBitsAreRefused : Prop :=
  ∀ (s : State) (a : Agent) (c : Command) (r : OpcodeRow), r ∈ opcodeTable →
    opField c.word = opField r.pattern → r.admits c.word = false →
    decode c.word = .reserved .rsvBits ∧
    s.issue a c = .next { s.present a c with refused := some (s.refused.getD .reservedEncoding) }

/-- The byte form of a command is its word in little-endian order, and the decoder consumes exactly those four bytes
(20_memory.md R53, 30_encoding.md R83). -/
def Obligations.BytesDecodeLittleEndian : Prop :=
  (∀ (i : Instr) (rest : List Byte), decodeBytes (encodeBytes i ++ rest) = .word (.command i) rest) ∧
  (∀ (b0 b1 b2 b3 : Byte) (rest : List Byte), decodeBytes (b0 :: b1 :: b2 :: b3 :: rest) =
    .word (decode (BitVec.ofNat 32 (b0.toNat + 256 * b1.toNat + 65536 * b2.toNat + 16777216 * b3.toNat))) rest)

/-- Words written out from the encodings of 30_encoding.md R77 decode to the instructions they stand for. -/
def Obligations.WrittenOutWordsDecode : Prop :=
  decode 0b0001_11_00_00000111_00000000_00000000#32 = .command (.attach 7 .rising) ∧
  decode 0b0010_00_00_00000011_00000000_00000000#32 = .command (.detach 3) ∧
  decode 0b0111_00_00_00000000_00000000_00000001#32 = .command (.setgie true) ∧
  decode 0b1000_00_01_00000000_00000000_11111110#32 = .command (.pinwrite 1 0xFE) ∧
  decode 0b1001_00_00_00000000_00000000_00000000#32 = .command .cbret

/-! ### Steps -/

/-- In a running state whose next turn is an agent's that may step and has a command whose word decodes to `i`, the step is
`i` executed on that state with the turn and the command taken away and the command on the port. -/
def Obligations.StepExecutesTheIssuedInstruction : Prop :=
  ∀ (s : State) (c : Command) (rest : List Command) (ts : List Turn) (i : Instr), s.running → decode c.word = .command i →
    (s.turns = .mainline :: ts → s.mainlineCmds = c :: rest → s.seq = .idle →
      step s = exec i { s with turns := ts, mainlineCmds := rest, issuer := .mainline, portFn := c.fn, portArg := c.arg }) ∧
    (s.turns = .callback :: ts → s.callbackCmds = c :: rest → s.callbackRuns = true →
      step s = exec i { s with turns := ts, callbackCmds := rest, issuer := .callback, portFn := c.fn, portArg := c.arg }) ∧
    (s.turns = .pinEnvironment :: ts → s.pinCmds = c :: rest →
      step s = exec i { s with turns := ts, pinCmds := rest, issuer := .pinEnvironment, portFn := c.fn, portArg := c.arg })

/-- R36, first part. Once a fault or a refusal is recorded the machine has no next state. -/
def Obligations.StoppedBlockHasNoStep : Prop :=
  ∀ s : State, (s.fault ≠ none ∨ s.refused ≠ none) → ∀ t, step s ≠ .next t

/-- In a running state the machine always has a next state: no data, no word and no schedule ends a run before a fault or a
refusal is recorded in State (log 10). -/
def Obligations.RunningBlockAlwaysSteps : Prop := ∀ s : State, s.running → ∃ t, step s = .next t

/-- R34, for the mainline: while a dispatch runs, no step takes a command from it, so its next command after the dispatch is
the one it would have issued (R209). -/
def Obligations.DispatchKeepsTheMainlinesCommands : Prop :=
  ∀ s t : State, step s = .next t → s.seq ≠ .idle → t.mainlineCmds = s.mainlineCmds

/-! ### Registration -/

/-- R103, R104. ATTACH from the mainline or a callback: no effect on an unresolved pin or a null callback; else the slot, the
two edge-mask bits by the mode, the mask bit, the group-enable bit and bit `b` of `state` are written and the draw is ORed
into PEND, and nothing else changes. -/
def Obligations.AttachSemantics : Prop :=
  ∀ (s : State) (pin : PinId) (mode : ModeField), s.byProgram →
    (s.locate pin = none → exec (.attach pin mode) s = .next s) ∧
    (s.portFn = none → exec (.attach pin mode) s = .next s) ∧
    (∀ g b fn, s.locate pin = some (g, b) → s.portFn = some fn → ∃ t, exec (.attach pin mode) s = .next t ∧
      t.slotAt g b = some { fn := fn, arg := s.portArg } ∧
      bitAt (t.group g).rise b = decide (mode = .rising ∨ mode = .change) ∧
      bitAt (t.group g).fall b = decide (mode = .falling ∨ mode = .change) ∧
      bitAt (t.regRead (.mask g)) b = true ∧
      t.groupEnabled g = true ∧
      bitAt (t.group g).state b = bitAt (s.regRead (.live g)) b ∧
      t.pending g = (s.pending g || Config.midCommandChange s.draws) ∧
      t.draws = s.draws + 1 ∧
      s.registrationFrame t g b)

/-- R111, R112. DETACH from the mainline or a callback: no effect on an unresolved pin; else the slot, both edge-mask bits and
the mask bit are cleared, the group-enable bit is cleared exactly when no mask bit is then left and otherwise stays, and
nothing else changes: not `state`, not PEND (R113). -/
def Obligations.DetachSemantics : Prop :=
  ∀ (s : State) (pin : PinId), s.byProgram →
    (s.locate pin = none → exec (.detach pin) s = .next s) ∧
    (∀ g b, s.locate pin = some (g, b) → ∃ t, exec (.detach pin) s = .next t ∧
      t.slotAt g b = none ∧
      bitAt (t.group g).rise b = false ∧
      bitAt (t.group g).fall b = false ∧
      bitAt (t.regRead (.mask g)) b = false ∧
      t.groupEnabled g = (s.groupEnabled g && decide (t.regRead (.mask g) ≠ 0x00#8)) ∧
      (t.group g).state = (s.group g).state ∧
      t.pend = s.pend ∧ t.draws = s.draws ∧
      s.registrationFrame t g b)

/-- R118, R119. ENABLE from the mainline or a callback: no effect on an unresolved pin or an empty slot, where no draw is
taken; else the mask bit, the group-enable bit and bit `b` of `state` are written and the draw is ORed into PEND; the slot and
the edge masks stay (R120), and nothing else changes. -/
def Obligations.EnableSemantics : Prop :=
  ∀ (s : State) (pin : PinId), s.byProgram →
    (s.locate pin = none → exec (.enable pin) s = .next s) ∧
    (∀ g b, s.locate pin = some (g, b) → s.slotAt g b = none → exec (.enable pin) s = .next s) ∧
    (∀ g b c, s.locate pin = some (g, b) → s.slotAt g b = some c → ∃ t, exec (.enable pin) s = .next t ∧
      bitAt (t.regRead (.mask g)) b = true ∧
      t.groupEnabled g = true ∧
      bitAt (t.group g).state b = bitAt (s.regRead (.live g)) b ∧
      t.pending g = (s.pending g || Config.midCommandChange s.draws) ∧
      t.draws = s.draws + 1 ∧
      (t.group g).slot = (s.group g).slot ∧ (t.group g).rise = (s.group g).rise ∧ (t.group g).fall = (s.group g).fall ∧
      s.registrationFrame t g b)

/-- R124. DISABLE from the mainline or a callback: no effect on an unresolved pin; else the mask bit is cleared and the
group-enable bit exactly when no mask bit is then left; all of Group State and PEND stay (R125), and nothing else changes. -/
def Obligations.DisableSemantics : Prop :=
  ∀ (s : State) (pin : PinId), s.byProgram →
    (s.locate pin = none → exec (.disable pin) s = .next s) ∧
    (∀ g b, s.locate pin = some (g, b) → ∃ t, exec (.disable pin) s = .next t ∧
      bitAt (t.regRead (.mask g)) b = false ∧
      t.groupEnabled g = (s.groupEnabled g && decide (t.regRead (.mask g) ≠ 0x00#8)) ∧
      t.groups = s.groups ∧ t.pend = s.pend ∧ t.draws = s.draws ∧
      s.registrationFrame t g b)

/-- R82, and the rows of R73 it rests on. A command from an agent that the table does not list for it is refused WrongAgent and
does nothing else, and PINWRITE to a group that does not exist is refused NoSuchGroup when the pin environment issues it (from
another agent both refusals apply, and the model checks the issuer first: log 11). -/
def Obligations.WrongIssuersAreRefused : Prop :=
  ∀ (s : State) (i : Instr),
    (s.issuer = .sequencer ∨
      (s.issuer = .mainline ∧ (i = .cbret ∨ ∃ g v, i = .pinwrite g v)) ∨
      (s.issuer = .callback ∧ ((∃ e, i = .setgie e) ∨ ∃ g v, i = .pinwrite g v)) ∨
      (s.issuer = .pinEnvironment ∧ ∀ g v, i ≠ .pinwrite g v) →
      exec i s = .next { s with refused := some (s.refused.getD .wrongAgent) }) ∧
    (∀ g v, i = .pinwrite g v → s.issuer = .pinEnvironment → s.cfg.nGroups ≤ g.val →
      exec i s = .next { s with refused := some (s.refused.getD .noSuchGroup) })

/-- R114. In a state that meets the registration invariant, DETACH of a pin with an empty slot changes nothing at all. -/
def Obligations.DetachOfAnEmptySlotChangesNothing : Prop :=
  ∀ (s : State) (pin : PinId) (g : GroupIx) (b : BitIx), s.byProgram → s.RegistrationInv →
    s.locate pin = some (g, b) → s.slotAt g b = none → exec (.detach pin) s = .next s

/-- R114, last sentence: two DETACHes of one pin in a row leave the same state as one. -/
def Obligations.DetachTwiceIsDetachOnce : Prop :=
  ∀ (s t : State) (pin : PinId), s.byProgram → s.RegistrationInv → exec (.detach pin) s = .next t →
    exec (.detach pin) t = .next t

/-- R126. In a state that meets the registration invariant, DISABLE of a pin with an empty slot, or of one that is already
disabled, changes nothing at all. -/
def Obligations.DisableOfADisabledPinChangesNothing : Prop :=
  ∀ (s : State) (pin : PinId) (g : GroupIx) (b : BitIx), s.byProgram → s.RegistrationInv → s.locate pin = some (g, b) →
    (s.slotAt g b = none ∨ bitAt (s.regRead (.mask g)) b = false) → exec (.disable pin) s = .next s

/-- R129. DISABLE and then ENABLE of an attached pin: callback, argument and edge masks are as before, the group-enable bit is
clear between the two exactly when the pin was the last enabled one, and after them the mask bit and the group-enable bit are
set and bit `b` of `state` is the live level. -/
def Obligations.DisableThenEnableResumes : Prop :=
  ∀ (s : State) (pin : PinId) (g : GroupIx) (b : BitIx) (c : Callback), s.byProgram → s.RegistrationInv →
    s.locate pin = some (g, b) → s.slotAt g b = some c →
    ∃ t u, exec (.disable pin) s = .next t ∧ exec (.enable pin) t = .next u ∧
      (t.groupEnabled g = false ↔ ∀ k, k ≠ b → bitAt (s.regRead (.mask g)) k = false) ∧
      (u.group g).slot = (s.group g).slot ∧ (u.group g).rise = (s.group g).rise ∧ (u.group g).fall = (s.group g).fall ∧
      bitAt (u.regRead (.mask g)) b = true ∧ u.groupEnabled g = true ∧
      bitAt (u.group g).state b = bitAt (s.regRead (.live g)) b

/-- R101. Each registration command behaves as CSENTER, itself, CSEXIT, with nothing between: run so, the three leave exactly
the state that the command alone leaves. The premise on GIE in a dispatch holds in every state that a run reaches
(`EveryStepKeepsGieClearInADispatch`). -/
def Obligations.RegistrationIsItsOwnCriticalSection : Prop :=
  ∀ (s : State) (i : Instr) (pin : PinId), s.byProgram → s.gieClearInDispatch → pinOperand i = some pin →
    ∃ t, exec i s = .next t ∧ State.runCommands [.csenter, i, .csexit] s = .next t ∧ t.gie = s.gie ∧ t.csStack = s.csStack ∧
      t.seq = s.seq ∧ t.trace = s.trace

/-! ### The critical section and the global enable -/

/-- R141. CSENTER is the word 0x50000000; from the mainline or a callback it pushes GIE and clears it, and changes nothing
else. -/
def Obligations.CsenterSavesAndMasks : Prop :=
  (∀ w : CmdWord, decode w = .command .csenter ↔ w = 0x50000000#32) ∧
  ∀ s : State, s.byProgram → exec .csenter s = .next { s with csStack := s.gie :: s.csStack, gie := false }

/-- R144, R145. CSEXIT is the word 0x60000000; from the mainline or a callback it restores GIE from the innermost section, and
with no section open it records the fault CsUnderflow with the issuing agent (R201); it changes nothing else. The one CSEXIT
left out here, in a dispatch of a section that saved 1, is log 15's: `CsexitInADispatchKeepsGieClear`. -/
def Obligations.CsexitRestoresOrUnderflows : Prop :=
  (∀ w : CmdWord, decode w = .command .csexit ↔ w = 0x60000000#32) ∧
  ∀ s : State, s.byProgram →
    (∀ saved rest, s.csStack = saved :: rest → s.seq = .idle ∨ saved = false →
      exec .csexit s = .next { s with gie := saved, csStack := rest }) ∧
    (s.csStack = [] → exec .csexit s = .next { s with fault := some (s.fault.getD (.csUnderflow s.issuer)) })

/-- R211, R252 and 90_conflicts.md C4, as the model reads them against R144 (DEDUCED, log 15): in a dispatch a CSEXIT closes
the innermost section and leaves GIE 0, whatever the section saved, and changes nothing else. -/
def Obligations.CsexitInADispatchKeepsGieClear : Prop :=
  ∀ (s : State) (saved : Bool) (rest : List Bool), s.byProgram → s.seq ≠ .idle → s.csStack = saved :: rest →
    exec .csexit s = .next { s with gie := false, csStack := rest }

/-- R147, R149. SETGIE is the words 0x70000000 and 0x70000001; from the mainline it writes GIE in mainline context and changes
nothing else; in interrupt context, from the mainline or a callback, it is refused WrongAgent and changes nothing else. -/
def Obligations.SetgieSemantics : Prop :=
  (∀ (w : CmdWord) (e : Bool), decode w = .command (.setgie e) ↔ w = if e then 0x70000001#32 else 0x70000000#32) ∧
  ∀ (s : State) (e : Bool),
    (s.issuer = .mainline → s.seq = .idle → exec (.setgie e) s = .next { s with gie := e }) ∧
    (s.byProgram → s.seq ≠ .idle → exec (.setgie e) s = .next { s with refused := some (s.refused.getD .wrongAgent) })

/-- R150. Any sequence that opens with CSENTER, closes with the CSEXIT that matches it and holds registration commands and
properly nested sections in between runs through and leaves GIE, CSSTACK and both marks as they were. The premise on GIE in a
dispatch holds in every state that a run reaches (`EveryStepKeepsGieClearInADispatch`). -/
def Obligations.BalancedSectionsRestore : Prop :=
  ∀ (s : State) (body : List Instr), s.byProgram → s.gieClearInDispatch → Balanced body →
    ∃ t, State.runCommands (.csenter :: (body ++ [.csexit])) s = .next t ∧
      t.gie = s.gie ∧ t.csStack = s.csStack ∧ t.fault = s.fault ∧ t.refused = s.refused ∧ t.seq = s.seq ∧ t.trace = s.trace

/-! ### PINWRITE and the request detector -/

/-- R160. The words of PINWRITE; by the pin environment to a group that exists, in every phase: LIVE[g] takes the value,
PEND[g] is set if a bit with its mask bit set changed and otherwise stays (R161), and nothing else changes; to a group that
does not exist it is refused NoSuchGroup. -/
def Obligations.PinwriteSemantics : Prop :=
  (∀ (w : CmdWord) (g : GroupIx) (v : Byte), decode w = .command (.pinwrite g v) ↔
    w = BitVec.ofNat 32 (0x80000000 + 0x1000000 * g.val + v.toNat)) ∧
  ∀ (s : State) (g : GroupIx) (v : Byte), s.issuer = .pinEnvironment →
    (s.cfg.nGroups ≤ g.val → exec (.pinwrite g v) s = .next { s with refused := some (s.refused.getD .noSuchGroup) }) ∧
    (g.val < s.cfg.nGroups → ∃ t, exec (.pinwrite g v) s = .next t ∧ t.regRead (.live g) = v ∧
      (t.pending g = true ↔ s.pending g = true ∨
        ∃ b, bitAt (s.regRead (.live g)) b ≠ bitAt v b ∧ bitAt (s.regRead (.mask g)) b = true) ∧
      (∀ h, h ≠ g → t.regRead (.live h) = s.regRead (.live h) ∧ t.pending h = s.pending h) ∧
      t = { s with live := t.live, pend := t.pend })

/-! ### The interrupt and the Dispatch Routine -/

/-- R168, R203. CBRET is the word 0x90000000; by the callback, at the depth TAKE found, the loop goes on at the next bit; at another depth the fault
CsUnbalanced is recorded with the group (R201); nothing else changes. -/
def Obligations.CbretSemantics : Prop :=
  (∀ w : CmdWord, decode w = .command .cbret ↔ w = 0x90000000#32) ∧
  ∀ (s : State) (g : GroupIx) (saved : Bool) (d : Nat) (trig lvl : Byte) (i : BitIx), s.issuer = .callback →
    s.seq = .inCallback g saved d trig lvl i →
    (s.csStack.length = d → exec .cbret s = .next { s with seq := .invoke g saved d trig lvl i.succ }) ∧
    (s.csStack.length ≠ d → exec .cbret s = .next { s with fault := some (s.fault.getD (.csUnbalanced g)) })

/-- R205, R206. A sequencer turn for group `g` in a running state in mainline context: under the condition of R205 it takes the
interrupt, clearing PEND[g] and GIE and saving GIE and the depth of CSSTACK in `seq`, and nothing else changes; without it
nothing happens but the turn. That a turn whose step is not enabled passes so is the model's choice (DESIGN CHOICE, log 2),
as is the turn itself (log 1). -/
def Obligations.TakeEntersTheDispatch : Prop :=
  ∀ (s : State) (g : GroupIx) (ts : List Turn), s.running → s.turns = .sequencer g :: ts → s.seq = .idle →
    (s.gie = true ∧ s.groupEnabled g = true ∧ s.pending g = true →
      ∃ t, step s = .next t ∧ t.pending g = false ∧ (∀ h, h ≠ g → t.pending h = s.pending h) ∧
        t = { s with turns := ts, pend := t.pend, seq := .entered g true s.csStack.length, gie := false }) ∧
    (¬(s.gie = true ∧ s.groupEnabled g = true ∧ s.pending g = true) → step s = .next { s with turns := ts })

/-- R205, over all steps: a dispatch starts only from mainline context with GIE set, for a group that exists, is enabled and
has a request, and it starts with what R206 saves. -/
def Obligations.DispatchStartsOnlyByTake : Prop :=
  ∀ s t : State, step s = .next t → s.seq = .idle → t.seq ≠ .idle →
    ∃ g, s.cfg.hasGroup g = true ∧ s.gie = true ∧ s.groupEnabled g = true ∧ s.pending g = true ∧ s.running ∧
      t.seq = .entered g s.gie s.csStack.length ∧ t.gie = false ∧ t.pending g = false

/-- R151. While GIE is clear, no step of any agent starts a dispatch. -/
def Obligations.MaskedSectionExcludesDispatch : Prop :=
  ∀ s t : State, step s = .next t → s.gie = false → s.seq = .idle → t.seq = .idle

/-- R164. A sequencer turn of a running state in phase Entered: `state` takes the whole of LIVE[g], the trigger set is
`(state XOR new) AND ((rise AND new) OR (fall AND NOT new))`, the loop starts at bit 0, and nothing else changes. -/
def Obligations.SampleComputesTheTriggerSet : Prop :=
  ∀ (s : State) (p g : GroupIx) (saved : Bool) (d : Nat) (ts : List Turn), s.running → s.turns = .sequencer p :: ts →
    s.seq = .entered g saved d →
    ∃ t, step s = .next t ∧ (t.group g) = { s.group g with state := s.regRead (.live g) } ∧
      (∀ h, h ≠ g → t.group h = s.group h) ∧
      t.seq = .invoke g saved d
        (((s.group g).state ^^^ s.regRead (.live g)) &&&
          (((s.group g).rise &&& s.regRead (.live g)) ||| ((s.group g).fall &&& ~~~(s.regRead (.live g)))))
        (s.regRead (.live g)) 0 ∧
      t = { s with turns := ts, groups := t.groups, seq := t.seq }

/-- R165. The trigger set bit by bit: the rising bit on a 0→1 change, the falling bit on a 1→0 change, nothing without a
change. -/
def Obligations.TriggerSetBitByBit : Prop :=
  ∀ (s : State) (g : GroupIx) (saved : Bool) (d : Nat) (b : BitIx), ∃ trig,
    (s.sample g saved d).seq = .invoke g saved d trig (s.regRead (.live g)) 0 ∧
    bitAt trig b =
      if bitAt (s.group g).state b = bitAt (s.regRead (.live g)) b then false
      else if bitAt (s.regRead (.live g)) b then bitAt (s.group g).rise b else bitAt (s.group g).fall b

/-- R166, R167. A sequencer turn of a running state in the loop at a bit below 8: a triggered bit with a callback is invoked at
its sampled level, and any other bit is skipped; nothing else changes. -/
def Obligations.LoopInvokesOrSkips : Prop :=
  ∀ (s : State) (p g : GroupIx) (saved : Bool) (d : Nat) (trig lvl : Byte) (i : BitIx) (ts : List Turn), s.running →
    s.turns = .sequencer p :: ts → s.seq = .invoke g saved d trig lvl i.castSucc →
    (∀ c, bitAt trig i = true → s.slotAt g i = some c →
      step s = .next { s with
        turns := ts, seq := .inCallback g saved d trig lvl i,
        trace := s.trace ++ [{ g := g, b := i, fn := c.fn, arg := c.arg, level := bitAt lvl i }] }) ∧
    (bitAt trig i = false ∨ s.slotAt g i = none →
      step s = .next { s with turns := ts, seq := .invoke g saved d trig lvl i.succ })

/-- R210, R203. A sequencer turn of a running state in the loop at 8 returns from the Dispatch Routine, restoring GIE, or
records the fault CsUnbalanced; nothing else changes. -/
def Obligations.ReturnRestoresGie : Prop :=
  ∀ (s : State) (p g : GroupIx) (saved : Bool) (d : Nat) (trig lvl : Byte) (ts : List Turn), s.running →
    s.turns = .sequencer p :: ts → s.seq = .invoke g saved d trig lvl 8 →
    (s.csStack.length = d → step s = .next { s with turns := ts, gie := saved, seq := .idle }) ∧
    (s.csStack.length ≠ d → step s = .next { s with turns := ts, fault := some (.csUnbalanced g) })

/-- R255, as far as one step shows it (log 3): in a running state with no turn left, an enabled step of the sequencer is taken
by the very next step, and the group of a TAKE is any takeable one (log 4). -/
def Obligations.SequencerActsWhenNoTurnIsLeft : Prop :=
  ∀ s : State, s.running → s.turns = [] →
    (s.seq = .idle → (∃ g, s.takeEnabled g = true) →
      ∃ h t, s.takeEnabled h = true ∧ step s = .next t ∧ t.seq = .entered h true s.csStack.length) ∧
    (s.seq = .idle → (∀ g, s.takeEnabled g = false) → step s = .next s) ∧
    (s.seq ≠ .idle → s.callbackRuns = false → ∃ t u, s.sequencerStep 0 = some u ∧ step s = .next t ∧ t = u) ∧
    (s.callbackRuns = true → step s = .next s)

/-- R176, with the loop of R166 to R168 and R210. From the start of the loop, with callbacks that return at once, the 17 turns of
`loopTurns` append to TRACE exactly the Call events of the triggered bits with a callback, in rising bit order, and end the
dispatch with GIE restored. The schedule is one of the model's (log 1), and the callback's turn after a SKIP passes (DESIGN
CHOICE, log 2): the count of 17 turns counts those too. -/
def Obligations.LoopDeliversTheDueCalls : Prop :=
  ∀ (s : State) (g : GroupIx) (saved : Bool) (trig lvl : Byte) (ts : List Turn), s.running →
    s.seq = .invoke g saved s.csStack.length trig lvl 0 → s.turns = loopTurns ++ ts →
    s.callbackCmds = List.replicate 8 cbretCommand →
    ∃ t, runSteps 17 s = .next t ∧ t.trace = s.trace ++ s.dueCalls g trig lvl ∧ t.seq = .idle ∧ t.gie = saved ∧
      t.turns = ts ∧ t.groups = s.groups ∧ t.mask = s.mask ∧ t.grpen = s.grpen ∧ t.live = s.live ∧ t.pend = s.pend ∧
      t.csStack = s.csStack ∧ t.running

/-- R206, R164, R176, R210: a whole dispatch. From mainline context with TAKE of group `g` enabled, a TAKE, a SAMPLE and the turns
of `loopTurns` with callbacks that return at once deliver exactly the callbacks of the bits that changed in a direction they
are registered for, at the sampled levels and in rising bit order, and leave GIE set, PEND[g] clear and `state` at LIVE. The schedule is one of the
model's (log 1), and the callback's turn after a SKIP passes (DESIGN CHOICE, log 2): the count of 19 turns counts those
too. -/
def Obligations.DispatchDeliversTheQualifyingEdges : Prop :=
  ∀ (s : State) (g p : GroupIx) (ts : List Turn), s.takeEnabled g = true →
    s.turns = .sequencer g :: .sequencer p :: (loopTurns ++ ts) → s.callbackCmds = List.replicate 8 cbretCommand →
    ∃ t, runSteps 19 s = .next t ∧
      t.trace = s.trace ++ s.dueCalls g
        (((s.group g).state ^^^ s.regRead (.live g)) &&&
          (((s.group g).rise &&& s.regRead (.live g)) ||| ((s.group g).fall &&& ~~~(s.regRead (.live g)))))
        (s.regRead (.live g)) ∧
      t.seq = .idle ∧ t.gie = true ∧ t.pending g = false ∧ (t.group g).state = s.regRead (.live g) ∧
      (∀ h, h ≠ g → t.group h = s.group h ∧ t.pending h = s.pending h) ∧
      t.mask = s.mask ∧ t.grpen = s.grpen ∧ t.live = s.live ∧ t.csStack = s.csStack ∧ t.running ∧ t.turns = ts

/-- R172, R108. After an ATTACH that took effect, for any later live value and any later `state`, the bit triggers on a rise
exactly in the modes RISING and CHANGE, on a fall exactly in the modes FALLING and CHANGE, and never with MODE 00. -/
def Obligations.AttachedModeDecidesTheTrigger : Prop :=
  ∀ (s t : State) (pin : PinId) (mode : ModeField) (g : GroupIx) (b : BitIx) (observed new : Byte), s.byProgram →
    s.locate pin = some (g, b) → s.portFn ≠ none → exec (.attach pin mode) s = .next t →
    (bitAt (triggerBits { t.group g with state := observed } new) b = true ↔
      (bitAt observed b = false ∧ bitAt new b = true ∧ (mode = .rising ∨ mode = .change)) ∨
      (bitAt observed b = true ∧ bitAt new b = false ∧ (mode = .falling ∨ mode = .change)))

/-- R244. A SAMPLE that follows an ATTACH with no pin change between does not trigger the attached bit: no false first edge. -/
def Obligations.NoFalseFirstEdge : Prop :=
  ∀ (s t : State) (pin : PinId) (mode : ModeField) (g : GroupIx) (b : BitIx), s.byProgram →
    s.locate pin = some (g, b) → s.portFn ≠ none → exec (.attach pin mode) s = .next t →
    bitAt (triggerBits (t.group g) (t.regRead (.live g))) b = false

/-- R173. In a state that meets the registration invariant, a bit with an empty slot never triggers, whatever the pins do. -/
def Obligations.EmptySlotNeverTriggers : Prop :=
  ∀ (s : State) (g : GroupIx) (b : BitIx) (new : Byte), s.RegistrationInv → s.slotAt g b = none →
    bitAt (triggerBits (s.group g) new) b = false

/-- R174. A pin whose `state` bit equals its live level is neither invoked by the loop nor has its `state` bit changed when a
SAMPLE runs, whatever the other bits of the group do. -/
def Obligations.UnchangedPinIsNotDisturbed : Prop :=
  ∀ (s t : State) (p g : GroupIx) (saved : Bool) (d : Nat) (b : BitIx) (ts : List Turn), s.running →
    s.turns = .sequencer p :: ts → s.seq = .entered g saved d →
    bitAt (s.group g).state b = bitAt (s.regRead (.live g)) b → step s = .next t →
    bitAt (t.group g).state b = bitAt (s.group g).state b ∧
    ∃ trig lvl, t.seq = .invoke g saved d trig lvl 0 ∧ bitAt trig b = false ∧ ∀ e ∈ t.dueCalls g trig lvl, e.b ≠ b

/-! ### What no step can do -/

/-- R37, R38, R39 and the reserved bits of R28: every step keeps the registration invariant, from every state that has it. -/
def Obligations.EveryStepKeepsTheRegistrationInvariant : Prop :=
  ∀ s t : State, s.RegistrationInv → step s = .next t → t.RegistrationInv

/-- The registration invariant holds at reset. -/
def Obligations.ResetMeetsTheRegistrationInvariant : Prop := State.reset.RegistrationInv

/-- R35. A step leaves TRACE as it is or appends one Call event, and it appends one only by INVOKE: in the loop at a triggered
bit whose slot holds the callback named in the event, at the sampled level, and the callback then runs. -/
def Obligations.TraceGrowsOnlyByInvoke : Prop :=
  ∀ s t : State, step s = .next t →
    t.trace = s.trace ∨
    ∃ g saved d trig lvl, ∃ i : BitIx, ∃ c, s.seq = .invoke g saved d trig lvl i.castSucc ∧ bitAt trig i = true ∧
      s.slotAt g i = some c ∧ t.seq = .inCallback g saved d trig lvl i ∧
      t.trace = s.trace ++ [{ g := g, b := i, fn := c.fn, arg := c.arg, level := bitAt lvl i }]

/-- R30, R41, R213: a latched request goes away only when its interrupt is taken. -/
def Obligations.RequestsAreClearedOnlyByTake : Prop :=
  ∀ (s t : State) (g : GroupIx), step s = .next t → s.pending g = true → t.pending g = false →
    s.takeEnabled g = true ∧ t.seq = .entered g true s.csStack.length ∧ t.gie = false

/-- R29, R41: LIVE changes only by a PINWRITE that the pin environment issues, and then in its group alone. -/
def Obligations.LiveIsWrittenOnlyByPinwrite : Prop :=
  ∀ s t : State, step s = .next t → t.live ≠ s.live →
    ∃ c g v, s.nextIssue = some (.pinEnvironment, c) ∧ decode c.word = .command (.pinwrite g v) ∧
      s.cfg.hasGroup g = true ∧ t.live = s.live.set g v

/-- R41, R64: the Group State of a group changes only by the SAMPLE of its own dispatch, in `state` alone, or by a registration
command whose pin is in that group. -/
def Obligations.GroupStateChangesOnlyByItsOwnSteps : Prop :=
  ∀ (s t : State) (h : GroupIx), step s = .next t → t.group h ≠ s.group h →
    (∃ saved d, s.seq = .entered h saved d ∧ t.group h = { s.group h with state := s.regRead (.live h) }) ∨
    (∃ a c i pin b, s.nextIssue = some (a, c) ∧ decode c.word = .command i ∧ pinOperand i = some pin ∧
      s.locate pin = some (h, b))

/-- R41, R64: MASK[g] and GRPEN[g] change only by a registration command whose pin is in group `g`. -/
def Obligations.MaskAndEnableChangeOnlyByRegistration : Prop :=
  ∀ (s t : State) (h : GroupIx), step s = .next t →
    (t.regRead (.mask h) ≠ s.regRead (.mask h) ∨ t.groupEnabled h ≠ s.groupEnabled h) →
    ∃ a c i pin b, s.nextIssue = some (a, c) ∧ (a = .mainline ∨ a = .callback) ∧ decode c.word = .command i ∧
      pinOperand i = some pin ∧ s.locate pin = some (h, b)

/-- R9, R12, R21: no step changes the configuration. -/
def Obligations.ConfigurationNeverChanges : Prop := ∀ s t : State, step s = .next t → t.cfg = s.cfg

/-- R211, R252, with 90_conflicts.md C4 (for CSEXIT: DEDUCED, log 15): GIE is 0 in a dispatch at reset, where none runs, and
every step keeps it so, from every state in which it is. -/
def Obligations.EveryStepKeepsGieClearInADispatch : Prop :=
  State.reset.gieClearInDispatch ∧
  ∀ s t : State, s.gieClearInDispatch → step s = .next t → t.gieClearInDispatch

/-- R31, R210, R211 (log 15): a step from interrupt context sets GIE only as the RETI that ends the dispatch. -/
def Obligations.GieInADispatchIsSetOnlyByReturn : Prop :=
  ∀ s t : State, step s = .next t → s.seq ≠ .idle → s.gie = false → t.gie = true →
    t.seq = .idle ∧ ∃ g d trig lvl, s.seq = .invoke g true d trig lvl 8

/-- R252: while a callback runs, no step lets the mainline issue, takes an interrupt of any group or sets GIE (log 15), and the
dispatch stays where it is until the callback issues CBRET, which moves the loop to the next bit. -/
def Obligations.DispatchWaitsForTheCallback : Prop :=
  ∀ (s t : State) (g : GroupIx) (saved : Bool) (d : Nat) (trig lvl : Byte) (i : BitIx), step s = .next t →
    s.seq = .inCallback g saved d trig lvl i → s.gieClearInDispatch →
    t.gie = false ∧ t.mainlineCmds = s.mainlineCmds ∧ (∀ h, s.pending h = true → t.pending h = true) ∧ t.trace = s.trace ∧
    (t.seq = s.seq ∨
      (t.seq = .invoke g saved d trig lvl i.succ ∧
        ∃ c, s.nextIssue = some (.callback, c) ∧ decode c.word = .command .cbret))

/-- R13: the core never inspects callback references or arguments: renaming every token of a state renames them in its step's
result and changes nothing else. -/
def Obligations.StepCommutesWithRenaming : Prop :=
  ∀ (f : FnRef → FnRef) (k : Arg → Arg) (s : State), step (s.rename f k) = mapNext (State.rename f k) (step s)

/-! ### Reset and the register map -/

/-- R240: every element at its reset value, and LIVE at the environment's draw, a free value (log 6). -/
def Obligations.ResetState : Prop :=
  (∀ g b, State.reset.slotAt g b = none) ∧
  (∀ g, (State.reset.group g).rise = 0x00#8 ∧ (State.reset.group g).fall = 0x00#8 ∧
    (State.reset.group g).state = 0x00#8 ∧ State.reset.regRead (.mask g) = 0x00#8 ∧ State.reset.pending g = false) ∧
  State.reset.regRead .grpen = 0x00#8 ∧ State.reset.gie = false ∧ State.reset.csStack = [] ∧ State.reset.seq = .idle ∧
  State.reset.trace = [] ∧ State.reset.fault = none ∧ State.reset.refused = none ∧
  (∀ g, State.reset.regRead (.live g) = Config.liveAtReset g)

/-- R242: from reset, no TAKE is enabled until a group is enabled by an ATTACH and GIE by a SETGIE: in a state with no group
enabled, or with GIE clear, no TAKE is; and reset is both. -/
def Obligations.NoTakeAfterReset : Prop :=
  (∀ g, State.reset.takeEnabled g = false) ∧
  (∀ s : State, ((∀ g, s.groupEnabled g = false) ∨ s.gie = false) → ∀ g, s.takeEnabled g = false)

/-- R28: GRPEN's bits from N_GROUPS up read as 0, and a write of them is ignored. -/
def Obligations.GrpenReservedBits : Prop :=
  ∀ (s : State) (v : Byte) (i : BitIx), s.cfg.nGroups ≤ i.val →
    bitAt (s.regRead .grpen) i = false ∧ bitAt ((s.regWrite .grpen v).regRead .grpen) i = false ∧
    s.regWrite .grpen (setBit v i true) = s.regWrite .grpen (setBit v i false)

/-- R51: on a platform whose addresses are as the rule requires, the address of an existing group's mask register is that
register's alone, and the address of its enable register is GRPEN's. -/
def Obligations.RegisterAddressesAreUnambiguous : Prop :=
  ∀ (c : Platform) (g : GroupIx), c.addressesOk = true → c.hasGroup g = true →
    regAt c (c.addrMask.get g) = some (.mask g) ∧ regAt c (c.addrGrpen.get g) = some .grpen
end

