-- ==== Sys2Proof/Laws/Bits.lean ====
section
/-! SUPPORT. The small lemmas of the bit operations and of the two detectors, bit by bit (00_scope.md R16, 42_dispatch.md
R160, R165). -/

namespace Sys2Proof.Machine

@[simp] theorem bitAt_zero (i : BitIx) : bitAt 0x00#8 i = false := by simp [bitAt]

@[simp] theorem bitAt_and (v w : Byte) (i : BitIx) : bitAt (v &&& w) i = (bitAt v i && bitAt w i) := by simp [bitAt]

@[simp] theorem bitAt_or (v w : Byte) (i : BitIx) : bitAt (v ||| w) i = (bitAt v i || bitAt w i) := by simp [bitAt]

@[simp] theorem bitAt_xor (v w : Byte) (i : BitIx) : bitAt (v ^^^ w) i = (bitAt v i ^^ bitAt w i) := by simp [bitAt]

@[simp] theorem bitAt_not (v : Byte) (i : BitIx) : bitAt (~~~v) i = !bitAt v i := by
  simp [bitAt]

@[simp] theorem bitAt_bitMask (i j : BitIx) : bitAt (bitMask i) j = decide (i = j) := by
  revert i j; decide

theorem bitAt_setBit (v : Byte) (i j : BitIx) (x : Bool) :
    bitAt (setBit v i x) j = if i = j then x else bitAt v j := by
  cases x <;> by_cases h : i = j <;> simp [setBit, h]

@[simp] theorem bitAt_setBit_self (v : Byte) (i : BitIx) (x : Bool) : bitAt (setBit v i x) i = x := by
  simp [bitAt_setBit]

theorem bitAt_setBit_of_ne {i j : BitIx} (h : i ≠ j) (v : Byte) (x : Bool) : bitAt (setBit v i x) j = bitAt v j := by
  simp [bitAt_setBit, h]

/-- Two bytes with the same bits are equal. -/
theorem byte_ext {v w : Byte} (h : ∀ i, bitAt v i = bitAt w i) : v = w := by
  apply BitVec.eq_of_getLsbD_eq
  intro i hi
  exact h ⟨i, hi⟩

theorem byte_ne_zero_iff (v : Byte) : v ≠ 0x00#8 ↔ ∃ i, bitAt v i = true := by
  constructor
  · intro h
    by_contra hn
    push Not at hn
    exact h (byte_ext fun i => by simpa using hn i)
  · rintro ⟨i, hi⟩ rfl
    simp at hi

theorem setBit_eq_self {v : Byte} {i : BitIx} {x : Bool} (h : bitAt v i = x) : setBit v i x = v :=
  byte_ext fun j => by by_cases e : i = j <;> simp_all [bitAt_setBit]

/-- The request detector sees exactly the enabled bits that changed (42_dispatch.md R160). -/
theorem requestDetected_iff (old new mask : Byte) :
    requestDetected old new mask = true ↔ ∃ i, bitAt old i ≠ bitAt new i ∧ bitAt mask i = true := by
  rw [requestDetected, bne_iff_ne, byte_ne_zero_iff]
  simp [bne_iff_ne]

/-- The trigger set, bit by bit (42_dispatch.md R165): no change never triggers, a rise triggers under the rising bit and a
fall under the falling bit. -/
theorem bitAt_triggerBits (g : GroupState) (new : Byte) (i : BitIx) :
    bitAt (triggerBits g new) i =
      match bitAt g.state i, bitAt new i with
      | false, true => bitAt g.rise i
      | true, false => bitAt g.fall i
      | true, true => false
      | false, false => false := by
  simp only [triggerBits, changedBits, qualifyingBits, bitAt_and, bitAt_or, bitAt_xor, bitAt_not]
  cases bitAt g.state i <;> cases bitAt new i <;> simp

@[simp] theorem enableBit_inj (g h : GroupIx) : enableBit g = enableBit h ↔ g = h := by
  revert g h; decide

/-- The implemented bits of GRPEN are those of the groups that exist (10_state.md R28). -/
theorem bitAt_grpenImplemented (c : Platform) (i : BitIx) : bitAt (grpenImplemented c) i = decide (i.val < c.nGroups) := by
  have all : ∀ (l : GroupIx) (j : BitIx), bitAt (BitVec.ofNat 8 (2 ^ (l.val + 1) - 1)) j = decide (j.val < l.val + 1) := by
    decide
  exact all c.lastGroup i

theorem bitAt_grpenImplemented_enableBit (c : Platform) (g : GroupIx) :
    bitAt (grpenImplemented c) (enableBit g) = c.hasGroup g := bitAt_grpenImplemented c (enableBit g)

end Sys2Proof.Machine
end

