-- ==== Sys2Proof/Laws/State.lean ====
section
/-! SUPPORT. One lemma for each field of State under each record update of the model, all true by `rfl`. A later proof
rewrites with these and unfolds no update. -/

namespace Sys2Proof.Machine

/-! ### The fields after `raise Fault(r)` -/

section
variable (s : State) (r : FaultReason)
@[simp] theorem raise_cfg : (s.raise r).cfg = s.cfg := rfl
@[simp] theorem raise_groups : (s.raise r).groups = s.groups := rfl
@[simp] theorem raise_mask : (s.raise r).mask = s.mask := rfl
@[simp] theorem raise_grpen : (s.raise r).grpen = s.grpen := rfl
@[simp] theorem raise_live : (s.raise r).live = s.live := rfl
@[simp] theorem raise_pend : (s.raise r).pend = s.pend := rfl
@[simp] theorem raise_gie : (s.raise r).gie = s.gie := rfl
@[simp] theorem raise_csStack : (s.raise r).csStack = s.csStack := rfl
@[simp] theorem raise_seq : (s.raise r).seq = s.seq := rfl
@[simp] theorem raise_trace : (s.raise r).trace = s.trace := rfl
@[simp] theorem raise_refused : (s.raise r).refused = s.refused := rfl
@[simp] theorem raise_issuer : (s.raise r).issuer = s.issuer := rfl
@[simp] theorem raise_portFn : (s.raise r).portFn = s.portFn := rfl
@[simp] theorem raise_portArg : (s.raise r).portArg = s.portArg := rfl
@[simp] theorem raise_mainlineCmds : (s.raise r).mainlineCmds = s.mainlineCmds := rfl
@[simp] theorem raise_callbackCmds : (s.raise r).callbackCmds = s.callbackCmds := rfl
@[simp] theorem raise_pinCmds : (s.raise r).pinCmds = s.pinCmds := rfl
@[simp] theorem raise_turns : (s.raise r).turns = s.turns := rfl
@[simp] theorem raise_draws : (s.raise r).draws = s.draws := rfl
@[simp] theorem raise_picks : (s.raise r).picks = s.picks := rfl
end

/-! ### The fields after `refuse(r)` -/

section
variable (s : State) (r : RefuseReason)
@[simp] theorem refuse_cfg : (s.refuse r).cfg = s.cfg := rfl
@[simp] theorem refuse_groups : (s.refuse r).groups = s.groups := rfl
@[simp] theorem refuse_mask : (s.refuse r).mask = s.mask := rfl
@[simp] theorem refuse_grpen : (s.refuse r).grpen = s.grpen := rfl
@[simp] theorem refuse_live : (s.refuse r).live = s.live := rfl
@[simp] theorem refuse_pend : (s.refuse r).pend = s.pend := rfl
@[simp] theorem refuse_gie : (s.refuse r).gie = s.gie := rfl
@[simp] theorem refuse_csStack : (s.refuse r).csStack = s.csStack := rfl
@[simp] theorem refuse_seq : (s.refuse r).seq = s.seq := rfl
@[simp] theorem refuse_trace : (s.refuse r).trace = s.trace := rfl
@[simp] theorem refuse_fault : (s.refuse r).fault = s.fault := rfl
@[simp] theorem refuse_issuer : (s.refuse r).issuer = s.issuer := rfl
@[simp] theorem refuse_portFn : (s.refuse r).portFn = s.portFn := rfl
@[simp] theorem refuse_portArg : (s.refuse r).portArg = s.portArg := rfl
@[simp] theorem refuse_mainlineCmds : (s.refuse r).mainlineCmds = s.mainlineCmds := rfl
@[simp] theorem refuse_callbackCmds : (s.refuse r).callbackCmds = s.callbackCmds := rfl
@[simp] theorem refuse_pinCmds : (s.refuse r).pinCmds = s.pinCmds := rfl
@[simp] theorem refuse_turns : (s.refuse r).turns = s.turns := rfl
@[simp] theorem refuse_draws : (s.refuse r).draws = s.draws := rfl
@[simp] theorem refuse_picks : (s.refuse r).picks = s.picks := rfl
end

/-! ### The fields after a write of MASK[g] -/

section
variable (s : State) (g : GroupIx) (v : Byte)
@[simp] theorem writeMask_cfg : (s.regWrite (.mask g) v).cfg = s.cfg := rfl
@[simp] theorem writeMask_groups : (s.regWrite (.mask g) v).groups = s.groups := rfl
@[simp] theorem writeMask_mask : (s.regWrite (.mask g) v).mask = s.mask.set g v := rfl
@[simp] theorem writeMask_grpen : (s.regWrite (.mask g) v).grpen = s.grpen := rfl
@[simp] theorem writeMask_live : (s.regWrite (.mask g) v).live = s.live := rfl
@[simp] theorem writeMask_pend : (s.regWrite (.mask g) v).pend = s.pend := rfl
@[simp] theorem writeMask_gie : (s.regWrite (.mask g) v).gie = s.gie := rfl
@[simp] theorem writeMask_csStack : (s.regWrite (.mask g) v).csStack = s.csStack := rfl
@[simp] theorem writeMask_seq : (s.regWrite (.mask g) v).seq = s.seq := rfl
@[simp] theorem writeMask_trace : (s.regWrite (.mask g) v).trace = s.trace := rfl
@[simp] theorem writeMask_fault : (s.regWrite (.mask g) v).fault = s.fault := rfl
@[simp] theorem writeMask_refused : (s.regWrite (.mask g) v).refused = s.refused := rfl
@[simp] theorem writeMask_issuer : (s.regWrite (.mask g) v).issuer = s.issuer := rfl
@[simp] theorem writeMask_portFn : (s.regWrite (.mask g) v).portFn = s.portFn := rfl
@[simp] theorem writeMask_portArg : (s.regWrite (.mask g) v).portArg = s.portArg := rfl
@[simp] theorem writeMask_mainlineCmds : (s.regWrite (.mask g) v).mainlineCmds = s.mainlineCmds := rfl
@[simp] theorem writeMask_callbackCmds : (s.regWrite (.mask g) v).callbackCmds = s.callbackCmds := rfl
@[simp] theorem writeMask_pinCmds : (s.regWrite (.mask g) v).pinCmds = s.pinCmds := rfl
@[simp] theorem writeMask_turns : (s.regWrite (.mask g) v).turns = s.turns := rfl
@[simp] theorem writeMask_draws : (s.regWrite (.mask g) v).draws = s.draws := rfl
@[simp] theorem writeMask_picks : (s.regWrite (.mask g) v).picks = s.picks := rfl
end

/-! ### The fields after a write of GRPEN -/

section
variable (s : State) (v : Byte)
@[simp] theorem writeGrpen_cfg : (s.regWrite .grpen v).cfg = s.cfg := rfl
@[simp] theorem writeGrpen_groups : (s.regWrite .grpen v).groups = s.groups := rfl
@[simp] theorem writeGrpen_mask : (s.regWrite .grpen v).mask = s.mask := rfl
@[simp] theorem writeGrpen_grpen : (s.regWrite .grpen v).grpen = v &&& grpenImplemented s.cfg := rfl
@[simp] theorem writeGrpen_live : (s.regWrite .grpen v).live = s.live := rfl
@[simp] theorem writeGrpen_pend : (s.regWrite .grpen v).pend = s.pend := rfl
@[simp] theorem writeGrpen_gie : (s.regWrite .grpen v).gie = s.gie := rfl
@[simp] theorem writeGrpen_csStack : (s.regWrite .grpen v).csStack = s.csStack := rfl
@[simp] theorem writeGrpen_seq : (s.regWrite .grpen v).seq = s.seq := rfl
@[simp] theorem writeGrpen_trace : (s.regWrite .grpen v).trace = s.trace := rfl
@[simp] theorem writeGrpen_fault : (s.regWrite .grpen v).fault = s.fault := rfl
@[simp] theorem writeGrpen_refused : (s.regWrite .grpen v).refused = s.refused := rfl
@[simp] theorem writeGrpen_issuer : (s.regWrite .grpen v).issuer = s.issuer := rfl
@[simp] theorem writeGrpen_portFn : (s.regWrite .grpen v).portFn = s.portFn := rfl
@[simp] theorem writeGrpen_portArg : (s.regWrite .grpen v).portArg = s.portArg := rfl
@[simp] theorem writeGrpen_mainlineCmds : (s.regWrite .grpen v).mainlineCmds = s.mainlineCmds := rfl
@[simp] theorem writeGrpen_callbackCmds : (s.regWrite .grpen v).callbackCmds = s.callbackCmds := rfl
@[simp] theorem writeGrpen_pinCmds : (s.regWrite .grpen v).pinCmds = s.pinCmds := rfl
@[simp] theorem writeGrpen_turns : (s.regWrite .grpen v).turns = s.turns := rfl
@[simp] theorem writeGrpen_draws : (s.regWrite .grpen v).draws = s.draws := rfl
@[simp] theorem writeGrpen_picks : (s.regWrite .grpen v).picks = s.picks := rfl
end

/-! ### The fields after a write of LIVE[g] -/

section
variable (s : State) (g : GroupIx) (v : Byte)
@[simp] theorem writeLive_cfg : (s.regWrite (.live g) v).cfg = s.cfg := rfl
@[simp] theorem writeLive_groups : (s.regWrite (.live g) v).groups = s.groups := rfl
@[simp] theorem writeLive_mask : (s.regWrite (.live g) v).mask = s.mask := rfl
@[simp] theorem writeLive_grpen : (s.regWrite (.live g) v).grpen = s.grpen := rfl
@[simp] theorem writeLive_live : (s.regWrite (.live g) v).live = s.live.set g v := rfl
@[simp] theorem writeLive_pend : (s.regWrite (.live g) v).pend = s.pend := rfl
@[simp] theorem writeLive_gie : (s.regWrite (.live g) v).gie = s.gie := rfl
@[simp] theorem writeLive_csStack : (s.regWrite (.live g) v).csStack = s.csStack := rfl
@[simp] theorem writeLive_seq : (s.regWrite (.live g) v).seq = s.seq := rfl
@[simp] theorem writeLive_trace : (s.regWrite (.live g) v).trace = s.trace := rfl
@[simp] theorem writeLive_fault : (s.regWrite (.live g) v).fault = s.fault := rfl
@[simp] theorem writeLive_refused : (s.regWrite (.live g) v).refused = s.refused := rfl
@[simp] theorem writeLive_issuer : (s.regWrite (.live g) v).issuer = s.issuer := rfl
@[simp] theorem writeLive_portFn : (s.regWrite (.live g) v).portFn = s.portFn := rfl
@[simp] theorem writeLive_portArg : (s.regWrite (.live g) v).portArg = s.portArg := rfl
@[simp] theorem writeLive_mainlineCmds : (s.regWrite (.live g) v).mainlineCmds = s.mainlineCmds := rfl
@[simp] theorem writeLive_callbackCmds : (s.regWrite (.live g) v).callbackCmds = s.callbackCmds := rfl
@[simp] theorem writeLive_pinCmds : (s.regWrite (.live g) v).pinCmds = s.pinCmds := rfl
@[simp] theorem writeLive_turns : (s.regWrite (.live g) v).turns = s.turns := rfl
@[simp] theorem writeLive_draws : (s.regWrite (.live g) v).draws = s.draws := rfl
@[simp] theorem writeLive_picks : (s.regWrite (.live g) v).picks = s.picks := rfl
end

/-! ### The fields after a write of G[g] -/

section
variable (s : State) (g : GroupIx) (r : GroupState)
@[simp] theorem setGroup_cfg : (s.setGroup g r).cfg = s.cfg := rfl
@[simp] theorem setGroup_groups : (s.setGroup g r).groups = s.groups.set g r := rfl
@[simp] theorem setGroup_mask : (s.setGroup g r).mask = s.mask := rfl
@[simp] theorem setGroup_grpen : (s.setGroup g r).grpen = s.grpen := rfl
@[simp] theorem setGroup_live : (s.setGroup g r).live = s.live := rfl
@[simp] theorem setGroup_pend : (s.setGroup g r).pend = s.pend := rfl
@[simp] theorem setGroup_gie : (s.setGroup g r).gie = s.gie := rfl
@[simp] theorem setGroup_csStack : (s.setGroup g r).csStack = s.csStack := rfl
@[simp] theorem setGroup_seq : (s.setGroup g r).seq = s.seq := rfl
@[simp] theorem setGroup_trace : (s.setGroup g r).trace = s.trace := rfl
@[simp] theorem setGroup_fault : (s.setGroup g r).fault = s.fault := rfl
@[simp] theorem setGroup_refused : (s.setGroup g r).refused = s.refused := rfl
@[simp] theorem setGroup_issuer : (s.setGroup g r).issuer = s.issuer := rfl
@[simp] theorem setGroup_portFn : (s.setGroup g r).portFn = s.portFn := rfl
@[simp] theorem setGroup_portArg : (s.setGroup g r).portArg = s.portArg := rfl
@[simp] theorem setGroup_mainlineCmds : (s.setGroup g r).mainlineCmds = s.mainlineCmds := rfl
@[simp] theorem setGroup_callbackCmds : (s.setGroup g r).callbackCmds = s.callbackCmds := rfl
@[simp] theorem setGroup_pinCmds : (s.setGroup g r).pinCmds = s.pinCmds := rfl
@[simp] theorem setGroup_turns : (s.setGroup g r).turns = s.turns := rfl
@[simp] theorem setGroup_draws : (s.setGroup g r).draws = s.draws := rfl
@[simp] theorem setGroup_picks : (s.setGroup g r).picks = s.picks := rfl
end

/-! ### The fields after latching a request -/

section
variable (s : State) (g : GroupIx) (p : Bool)
@[simp] theorem latchRequest_cfg : (s.latchRequest g p).cfg = s.cfg := rfl
@[simp] theorem latchRequest_groups : (s.latchRequest g p).groups = s.groups := rfl
@[simp] theorem latchRequest_mask : (s.latchRequest g p).mask = s.mask := rfl
@[simp] theorem latchRequest_grpen : (s.latchRequest g p).grpen = s.grpen := rfl
@[simp] theorem latchRequest_live : (s.latchRequest g p).live = s.live := rfl
@[simp] theorem latchRequest_pend : (s.latchRequest g p).pend = s.pend.set g (s.pending g || p) := rfl
@[simp] theorem latchRequest_gie : (s.latchRequest g p).gie = s.gie := rfl
@[simp] theorem latchRequest_csStack : (s.latchRequest g p).csStack = s.csStack := rfl
@[simp] theorem latchRequest_seq : (s.latchRequest g p).seq = s.seq := rfl
@[simp] theorem latchRequest_trace : (s.latchRequest g p).trace = s.trace := rfl
@[simp] theorem latchRequest_fault : (s.latchRequest g p).fault = s.fault := rfl
@[simp] theorem latchRequest_refused : (s.latchRequest g p).refused = s.refused := rfl
@[simp] theorem latchRequest_issuer : (s.latchRequest g p).issuer = s.issuer := rfl
@[simp] theorem latchRequest_portFn : (s.latchRequest g p).portFn = s.portFn := rfl
@[simp] theorem latchRequest_portArg : (s.latchRequest g p).portArg = s.portArg := rfl
@[simp] theorem latchRequest_mainlineCmds : (s.latchRequest g p).mainlineCmds = s.mainlineCmds := rfl
@[simp] theorem latchRequest_callbackCmds : (s.latchRequest g p).callbackCmds = s.callbackCmds := rfl
@[simp] theorem latchRequest_pinCmds : (s.latchRequest g p).pinCmds = s.pinCmds := rfl
@[simp] theorem latchRequest_turns : (s.latchRequest g p).turns = s.turns := rfl
@[simp] theorem latchRequest_draws : (s.latchRequest g p).draws = s.draws := rfl
@[simp] theorem latchRequest_picks : (s.latchRequest g p).picks = s.picks := rfl
end

/-! ### The fields after clearing a request -/

section
variable (s : State) (g : GroupIx)
@[simp] theorem clearRequest_cfg : (s.clearRequest g).cfg = s.cfg := rfl
@[simp] theorem clearRequest_groups : (s.clearRequest g).groups = s.groups := rfl
@[simp] theorem clearRequest_mask : (s.clearRequest g).mask = s.mask := rfl
@[simp] theorem clearRequest_grpen : (s.clearRequest g).grpen = s.grpen := rfl
@[simp] theorem clearRequest_live : (s.clearRequest g).live = s.live := rfl
@[simp] theorem clearRequest_pend : (s.clearRequest g).pend = s.pend.set g false := rfl
@[simp] theorem clearRequest_gie : (s.clearRequest g).gie = s.gie := rfl
@[simp] theorem clearRequest_csStack : (s.clearRequest g).csStack = s.csStack := rfl
@[simp] theorem clearRequest_seq : (s.clearRequest g).seq = s.seq := rfl
@[simp] theorem clearRequest_trace : (s.clearRequest g).trace = s.trace := rfl
@[simp] theorem clearRequest_fault : (s.clearRequest g).fault = s.fault := rfl
@[simp] theorem clearRequest_refused : (s.clearRequest g).refused = s.refused := rfl
@[simp] theorem clearRequest_issuer : (s.clearRequest g).issuer = s.issuer := rfl
@[simp] theorem clearRequest_portFn : (s.clearRequest g).portFn = s.portFn := rfl
@[simp] theorem clearRequest_portArg : (s.clearRequest g).portArg = s.portArg := rfl
@[simp] theorem clearRequest_mainlineCmds : (s.clearRequest g).mainlineCmds = s.mainlineCmds := rfl
@[simp] theorem clearRequest_callbackCmds : (s.clearRequest g).callbackCmds = s.callbackCmds := rfl
@[simp] theorem clearRequest_pinCmds : (s.clearRequest g).pinCmds = s.pinCmds := rfl
@[simp] theorem clearRequest_turns : (s.clearRequest g).turns = s.turns := rfl
@[simp] theorem clearRequest_draws : (s.clearRequest g).draws = s.draws := rfl
@[simp] theorem clearRequest_picks : (s.clearRequest g).picks = s.picks := rfl
end

/-! ### The fields after latching a free draw -/

section
variable (s : State) (g : GroupIx)
@[simp] theorem latchDraw_cfg : (s.latchDraw g).cfg = s.cfg := rfl
@[simp] theorem latchDraw_groups : (s.latchDraw g).groups = s.groups := rfl
@[simp] theorem latchDraw_mask : (s.latchDraw g).mask = s.mask := rfl
@[simp] theorem latchDraw_grpen : (s.latchDraw g).grpen = s.grpen := rfl
@[simp] theorem latchDraw_live : (s.latchDraw g).live = s.live := rfl
@[simp] theorem latchDraw_pend : (s.latchDraw g).pend = s.pend.set g (s.pending g || Config.midCommandChange s.draws) := rfl
@[simp] theorem latchDraw_gie : (s.latchDraw g).gie = s.gie := rfl
@[simp] theorem latchDraw_csStack : (s.latchDraw g).csStack = s.csStack := rfl
@[simp] theorem latchDraw_seq : (s.latchDraw g).seq = s.seq := rfl
@[simp] theorem latchDraw_trace : (s.latchDraw g).trace = s.trace := rfl
@[simp] theorem latchDraw_fault : (s.latchDraw g).fault = s.fault := rfl
@[simp] theorem latchDraw_refused : (s.latchDraw g).refused = s.refused := rfl
@[simp] theorem latchDraw_issuer : (s.latchDraw g).issuer = s.issuer := rfl
@[simp] theorem latchDraw_portFn : (s.latchDraw g).portFn = s.portFn := rfl
@[simp] theorem latchDraw_portArg : (s.latchDraw g).portArg = s.portArg := rfl
@[simp] theorem latchDraw_mainlineCmds : (s.latchDraw g).mainlineCmds = s.mainlineCmds := rfl
@[simp] theorem latchDraw_callbackCmds : (s.latchDraw g).callbackCmds = s.callbackCmds := rfl
@[simp] theorem latchDraw_pinCmds : (s.latchDraw g).pinCmds = s.pinCmds := rfl
@[simp] theorem latchDraw_turns : (s.latchDraw g).turns = s.turns := rfl
@[simp] theorem latchDraw_draws : (s.latchDraw g).draws = s.draws + 1 := rfl
@[simp] theorem latchDraw_picks : (s.latchDraw g).picks = s.picks := rfl
end

/-! ### The fields after emitting a Call event -/

section
variable (s : State) (e : CallEvent)
@[simp] theorem emit_cfg : (s.emit e).cfg = s.cfg := rfl
@[simp] theorem emit_groups : (s.emit e).groups = s.groups := rfl
@[simp] theorem emit_mask : (s.emit e).mask = s.mask := rfl
@[simp] theorem emit_grpen : (s.emit e).grpen = s.grpen := rfl
@[simp] theorem emit_live : (s.emit e).live = s.live := rfl
@[simp] theorem emit_pend : (s.emit e).pend = s.pend := rfl
@[simp] theorem emit_gie : (s.emit e).gie = s.gie := rfl
@[simp] theorem emit_csStack : (s.emit e).csStack = s.csStack := rfl
@[simp] theorem emit_seq : (s.emit e).seq = s.seq := rfl
@[simp] theorem emit_trace : (s.emit e).trace = s.trace ++ [e] := rfl
@[simp] theorem emit_fault : (s.emit e).fault = s.fault := rfl
@[simp] theorem emit_refused : (s.emit e).refused = s.refused := rfl
@[simp] theorem emit_issuer : (s.emit e).issuer = s.issuer := rfl
@[simp] theorem emit_portFn : (s.emit e).portFn = s.portFn := rfl
@[simp] theorem emit_portArg : (s.emit e).portArg = s.portArg := rfl
@[simp] theorem emit_mainlineCmds : (s.emit e).mainlineCmds = s.mainlineCmds := rfl
@[simp] theorem emit_callbackCmds : (s.emit e).callbackCmds = s.callbackCmds := rfl
@[simp] theorem emit_pinCmds : (s.emit e).pinCmds = s.pinCmds := rfl
@[simp] theorem emit_turns : (s.emit e).turns = s.turns := rfl
@[simp] theorem emit_draws : (s.emit e).draws = s.draws := rfl
@[simp] theorem emit_picks : (s.emit e).picks = s.picks := rfl
end

/-! ### The fields after opening a critical section -/

section
variable (s : State)
@[simp] theorem enterSection_cfg : (s.enterSection).cfg = s.cfg := rfl
@[simp] theorem enterSection_groups : (s.enterSection).groups = s.groups := rfl
@[simp] theorem enterSection_mask : (s.enterSection).mask = s.mask := rfl
@[simp] theorem enterSection_grpen : (s.enterSection).grpen = s.grpen := rfl
@[simp] theorem enterSection_live : (s.enterSection).live = s.live := rfl
@[simp] theorem enterSection_pend : (s.enterSection).pend = s.pend := rfl
@[simp] theorem enterSection_gie : (s.enterSection).gie = false := rfl
@[simp] theorem enterSection_csStack : (s.enterSection).csStack = s.gie :: s.csStack := rfl
@[simp] theorem enterSection_seq : (s.enterSection).seq = s.seq := rfl
@[simp] theorem enterSection_trace : (s.enterSection).trace = s.trace := rfl
@[simp] theorem enterSection_fault : (s.enterSection).fault = s.fault := rfl
@[simp] theorem enterSection_refused : (s.enterSection).refused = s.refused := rfl
@[simp] theorem enterSection_issuer : (s.enterSection).issuer = s.issuer := rfl
@[simp] theorem enterSection_portFn : (s.enterSection).portFn = s.portFn := rfl
@[simp] theorem enterSection_portArg : (s.enterSection).portArg = s.portArg := rfl
@[simp] theorem enterSection_mainlineCmds : (s.enterSection).mainlineCmds = s.mainlineCmds := rfl
@[simp] theorem enterSection_callbackCmds : (s.enterSection).callbackCmds = s.callbackCmds := rfl
@[simp] theorem enterSection_pinCmds : (s.enterSection).pinCmds = s.pinCmds := rfl
@[simp] theorem enterSection_turns : (s.enterSection).turns = s.turns := rfl
@[simp] theorem enterSection_draws : (s.enterSection).draws = s.draws := rfl
@[simp] theorem enterSection_picks : (s.enterSection).picks = s.picks := rfl
end

/-! ### The fields after TAKE -/

section
variable (s : State) (g : GroupIx)
@[simp] theorem take_cfg : (s.take g).cfg = s.cfg := rfl
@[simp] theorem take_groups : (s.take g).groups = s.groups := rfl
@[simp] theorem take_mask : (s.take g).mask = s.mask := rfl
@[simp] theorem take_grpen : (s.take g).grpen = s.grpen := rfl
@[simp] theorem take_live : (s.take g).live = s.live := rfl
@[simp] theorem take_pend : (s.take g).pend = s.pend.set g false := rfl
@[simp] theorem take_gie : (s.take g).gie = false := rfl
@[simp] theorem take_csStack : (s.take g).csStack = s.csStack := rfl
@[simp] theorem take_seq : (s.take g).seq = .entered g s.gie s.csStack.length := rfl
@[simp] theorem take_trace : (s.take g).trace = s.trace := rfl
@[simp] theorem take_fault : (s.take g).fault = s.fault := rfl
@[simp] theorem take_refused : (s.take g).refused = s.refused := rfl
@[simp] theorem take_issuer : (s.take g).issuer = s.issuer := rfl
@[simp] theorem take_portFn : (s.take g).portFn = s.portFn := rfl
@[simp] theorem take_portArg : (s.take g).portArg = s.portArg := rfl
@[simp] theorem take_mainlineCmds : (s.take g).mainlineCmds = s.mainlineCmds := rfl
@[simp] theorem take_callbackCmds : (s.take g).callbackCmds = s.callbackCmds := rfl
@[simp] theorem take_pinCmds : (s.take g).pinCmds = s.pinCmds := rfl
@[simp] theorem take_turns : (s.take g).turns = s.turns := rfl
@[simp] theorem take_draws : (s.take g).draws = s.draws := rfl
@[simp] theorem take_picks : (s.take g).picks = s.picks := rfl
end

/-! ### The fields after presenting a command -/

section
variable (s : State) (a : Agent) (c : Command)
@[simp] theorem present_cfg : (s.present a c).cfg = s.cfg := rfl
@[simp] theorem present_groups : (s.present a c).groups = s.groups := rfl
@[simp] theorem present_mask : (s.present a c).mask = s.mask := rfl
@[simp] theorem present_grpen : (s.present a c).grpen = s.grpen := rfl
@[simp] theorem present_live : (s.present a c).live = s.live := rfl
@[simp] theorem present_pend : (s.present a c).pend = s.pend := rfl
@[simp] theorem present_gie : (s.present a c).gie = s.gie := rfl
@[simp] theorem present_csStack : (s.present a c).csStack = s.csStack := rfl
@[simp] theorem present_seq : (s.present a c).seq = s.seq := rfl
@[simp] theorem present_trace : (s.present a c).trace = s.trace := rfl
@[simp] theorem present_fault : (s.present a c).fault = s.fault := rfl
@[simp] theorem present_refused : (s.present a c).refused = s.refused := rfl
@[simp] theorem present_issuer : (s.present a c).issuer = a := rfl
@[simp] theorem present_portFn : (s.present a c).portFn = c.fn := rfl
@[simp] theorem present_portArg : (s.present a c).portArg = c.arg := rfl
@[simp] theorem present_mainlineCmds : (s.present a c).mainlineCmds = s.mainlineCmds := rfl
@[simp] theorem present_callbackCmds : (s.present a c).callbackCmds = s.callbackCmds := rfl
@[simp] theorem present_pinCmds : (s.present a c).pinCmds = s.pinCmds := rfl
@[simp] theorem present_turns : (s.present a c).turns = s.turns := rfl
@[simp] theorem present_draws : (s.present a c).draws = s.draws := rfl
@[simp] theorem present_picks : (s.present a c).picks = s.picks := rfl
end

/-! ### The fields after a write of a slot -/

section
variable (s : State) (g : GroupIx) (b : BitIx) (c : Option Callback)
@[simp] theorem putSlot_cfg : (s.putSlot g b c).cfg = s.cfg := rfl
@[simp] theorem putSlot_mask : (s.putSlot g b c).mask = s.mask := rfl
@[simp] theorem putSlot_grpen : (s.putSlot g b c).grpen = s.grpen := rfl
@[simp] theorem putSlot_live : (s.putSlot g b c).live = s.live := rfl
@[simp] theorem putSlot_pend : (s.putSlot g b c).pend = s.pend := rfl
@[simp] theorem putSlot_gie : (s.putSlot g b c).gie = s.gie := rfl
@[simp] theorem putSlot_csStack : (s.putSlot g b c).csStack = s.csStack := rfl
@[simp] theorem putSlot_seq : (s.putSlot g b c).seq = s.seq := rfl
@[simp] theorem putSlot_trace : (s.putSlot g b c).trace = s.trace := rfl
@[simp] theorem putSlot_fault : (s.putSlot g b c).fault = s.fault := rfl
@[simp] theorem putSlot_refused : (s.putSlot g b c).refused = s.refused := rfl
@[simp] theorem putSlot_issuer : (s.putSlot g b c).issuer = s.issuer := rfl
@[simp] theorem putSlot_portFn : (s.putSlot g b c).portFn = s.portFn := rfl
@[simp] theorem putSlot_portArg : (s.putSlot g b c).portArg = s.portArg := rfl
@[simp] theorem putSlot_mainlineCmds : (s.putSlot g b c).mainlineCmds = s.mainlineCmds := rfl
@[simp] theorem putSlot_callbackCmds : (s.putSlot g b c).callbackCmds = s.callbackCmds := rfl
@[simp] theorem putSlot_pinCmds : (s.putSlot g b c).pinCmds = s.pinCmds := rfl
@[simp] theorem putSlot_turns : (s.putSlot g b c).turns = s.turns := rfl
@[simp] theorem putSlot_draws : (s.putSlot g b c).draws = s.draws := rfl
@[simp] theorem putSlot_picks : (s.putSlot g b c).picks = s.picks := rfl
end

/-! ### The fields after a write of the edge-mask bits -/

section
variable (s : State) (g : GroupIx) (b : BitIx) (r f : Bool)
@[simp] theorem putEdges_cfg : (s.putEdges g b r f).cfg = s.cfg := rfl
@[simp] theorem putEdges_mask : (s.putEdges g b r f).mask = s.mask := rfl
@[simp] theorem putEdges_grpen : (s.putEdges g b r f).grpen = s.grpen := rfl
@[simp] theorem putEdges_live : (s.putEdges g b r f).live = s.live := rfl
@[simp] theorem putEdges_pend : (s.putEdges g b r f).pend = s.pend := rfl
@[simp] theorem putEdges_gie : (s.putEdges g b r f).gie = s.gie := rfl
@[simp] theorem putEdges_csStack : (s.putEdges g b r f).csStack = s.csStack := rfl
@[simp] theorem putEdges_seq : (s.putEdges g b r f).seq = s.seq := rfl
@[simp] theorem putEdges_trace : (s.putEdges g b r f).trace = s.trace := rfl
@[simp] theorem putEdges_fault : (s.putEdges g b r f).fault = s.fault := rfl
@[simp] theorem putEdges_refused : (s.putEdges g b r f).refused = s.refused := rfl
@[simp] theorem putEdges_issuer : (s.putEdges g b r f).issuer = s.issuer := rfl
@[simp] theorem putEdges_portFn : (s.putEdges g b r f).portFn = s.portFn := rfl
@[simp] theorem putEdges_portArg : (s.putEdges g b r f).portArg = s.portArg := rfl
@[simp] theorem putEdges_mainlineCmds : (s.putEdges g b r f).mainlineCmds = s.mainlineCmds := rfl
@[simp] theorem putEdges_callbackCmds : (s.putEdges g b r f).callbackCmds = s.callbackCmds := rfl
@[simp] theorem putEdges_pinCmds : (s.putEdges g b r f).pinCmds = s.pinCmds := rfl
@[simp] theorem putEdges_turns : (s.putEdges g b r f).turns = s.turns := rfl
@[simp] theorem putEdges_draws : (s.putEdges g b r f).draws = s.draws := rfl
@[simp] theorem putEdges_picks : (s.putEdges g b r f).picks = s.picks := rfl
end

/-! ### The fields after a re-sample of one bit -/

section
variable (s : State) (g : GroupIx) (b : BitIx)
@[simp] theorem resample_cfg : (s.resample g b).cfg = s.cfg := rfl
@[simp] theorem resample_mask : (s.resample g b).mask = s.mask := rfl
@[simp] theorem resample_grpen : (s.resample g b).grpen = s.grpen := rfl
@[simp] theorem resample_live : (s.resample g b).live = s.live := rfl
@[simp] theorem resample_pend : (s.resample g b).pend = s.pend := rfl
@[simp] theorem resample_gie : (s.resample g b).gie = s.gie := rfl
@[simp] theorem resample_csStack : (s.resample g b).csStack = s.csStack := rfl
@[simp] theorem resample_seq : (s.resample g b).seq = s.seq := rfl
@[simp] theorem resample_trace : (s.resample g b).trace = s.trace := rfl
@[simp] theorem resample_fault : (s.resample g b).fault = s.fault := rfl
@[simp] theorem resample_refused : (s.resample g b).refused = s.refused := rfl
@[simp] theorem resample_issuer : (s.resample g b).issuer = s.issuer := rfl
@[simp] theorem resample_portFn : (s.resample g b).portFn = s.portFn := rfl
@[simp] theorem resample_portArg : (s.resample g b).portArg = s.portArg := rfl
@[simp] theorem resample_mainlineCmds : (s.resample g b).mainlineCmds = s.mainlineCmds := rfl
@[simp] theorem resample_callbackCmds : (s.resample g b).callbackCmds = s.callbackCmds := rfl
@[simp] theorem resample_pinCmds : (s.resample g b).pinCmds = s.pinCmds := rfl
@[simp] theorem resample_turns : (s.resample g b).turns = s.turns := rfl
@[simp] theorem resample_draws : (s.resample g b).draws = s.draws := rfl
@[simp] theorem resample_picks : (s.resample g b).picks = s.picks := rfl
end

/-! ### The fields after a write of one mask bit -/

section
variable (s : State) (g : GroupIx) (b : BitIx) (x : Bool)
@[simp] theorem putMaskBit_cfg : (s.putMaskBit g b x).cfg = s.cfg := rfl
@[simp] theorem putMaskBit_groups : (s.putMaskBit g b x).groups = s.groups := rfl
@[simp] theorem putMaskBit_grpen : (s.putMaskBit g b x).grpen = s.grpen := rfl
@[simp] theorem putMaskBit_live : (s.putMaskBit g b x).live = s.live := rfl
@[simp] theorem putMaskBit_pend : (s.putMaskBit g b x).pend = s.pend := rfl
@[simp] theorem putMaskBit_gie : (s.putMaskBit g b x).gie = s.gie := rfl
@[simp] theorem putMaskBit_csStack : (s.putMaskBit g b x).csStack = s.csStack := rfl
@[simp] theorem putMaskBit_seq : (s.putMaskBit g b x).seq = s.seq := rfl
@[simp] theorem putMaskBit_trace : (s.putMaskBit g b x).trace = s.trace := rfl
@[simp] theorem putMaskBit_fault : (s.putMaskBit g b x).fault = s.fault := rfl
@[simp] theorem putMaskBit_refused : (s.putMaskBit g b x).refused = s.refused := rfl
@[simp] theorem putMaskBit_issuer : (s.putMaskBit g b x).issuer = s.issuer := rfl
@[simp] theorem putMaskBit_portFn : (s.putMaskBit g b x).portFn = s.portFn := rfl
@[simp] theorem putMaskBit_portArg : (s.putMaskBit g b x).portArg = s.portArg := rfl
@[simp] theorem putMaskBit_mainlineCmds : (s.putMaskBit g b x).mainlineCmds = s.mainlineCmds := rfl
@[simp] theorem putMaskBit_callbackCmds : (s.putMaskBit g b x).callbackCmds = s.callbackCmds := rfl
@[simp] theorem putMaskBit_pinCmds : (s.putMaskBit g b x).pinCmds = s.pinCmds := rfl
@[simp] theorem putMaskBit_turns : (s.putMaskBit g b x).turns = s.turns := rfl
@[simp] theorem putMaskBit_draws : (s.putMaskBit g b x).draws = s.draws := rfl
@[simp] theorem putMaskBit_picks : (s.putMaskBit g b x).picks = s.picks := rfl
end

/-! ### The fields after a write of one group-enable bit -/

section
variable (s : State) (g : GroupIx) (x : Bool)
@[simp] theorem putGroupEnable_cfg : (s.putGroupEnable g x).cfg = s.cfg := rfl
@[simp] theorem putGroupEnable_groups : (s.putGroupEnable g x).groups = s.groups := rfl
@[simp] theorem putGroupEnable_mask : (s.putGroupEnable g x).mask = s.mask := rfl
@[simp] theorem putGroupEnable_live : (s.putGroupEnable g x).live = s.live := rfl
@[simp] theorem putGroupEnable_pend : (s.putGroupEnable g x).pend = s.pend := rfl
@[simp] theorem putGroupEnable_gie : (s.putGroupEnable g x).gie = s.gie := rfl
@[simp] theorem putGroupEnable_csStack : (s.putGroupEnable g x).csStack = s.csStack := rfl
@[simp] theorem putGroupEnable_seq : (s.putGroupEnable g x).seq = s.seq := rfl
@[simp] theorem putGroupEnable_trace : (s.putGroupEnable g x).trace = s.trace := rfl
@[simp] theorem putGroupEnable_fault : (s.putGroupEnable g x).fault = s.fault := rfl
@[simp] theorem putGroupEnable_refused : (s.putGroupEnable g x).refused = s.refused := rfl
@[simp] theorem putGroupEnable_issuer : (s.putGroupEnable g x).issuer = s.issuer := rfl
@[simp] theorem putGroupEnable_portFn : (s.putGroupEnable g x).portFn = s.portFn := rfl
@[simp] theorem putGroupEnable_portArg : (s.putGroupEnable g x).portArg = s.portArg := rfl
@[simp] theorem putGroupEnable_mainlineCmds : (s.putGroupEnable g x).mainlineCmds = s.mainlineCmds := rfl
@[simp] theorem putGroupEnable_callbackCmds : (s.putGroupEnable g x).callbackCmds = s.callbackCmds := rfl
@[simp] theorem putGroupEnable_pinCmds : (s.putGroupEnable g x).pinCmds = s.pinCmds := rfl
@[simp] theorem putGroupEnable_turns : (s.putGroupEnable g x).turns = s.turns := rfl
@[simp] theorem putGroupEnable_draws : (s.putGroupEnable g x).draws = s.draws := rfl
@[simp] theorem putGroupEnable_picks : (s.putGroupEnable g x).picks = s.picks := rfl
end

/-! ### The sticky marks (10_state.md R36) -/

@[simp] theorem raise_fault (s : State) (r : FaultReason) : (s.raise r).fault = some (s.fault.getD r) := by
  cases h : s.fault <;> simp [State.raise, h]

@[simp] theorem refuse_refused (s : State) (r : RefuseReason) : (s.refuse r).refused = some (s.refused.getD r) := by
  cases h : s.refused <;> simp [State.refuse, h]

/-- Raising a fault changes the FAULT mark alone. -/
theorem raise_eq (s : State) (r : FaultReason) : s.raise r = { s with fault := some (s.fault.getD r) } := by
  cases h : s.fault <;> simp [State.raise, h]

/-- Refusing changes the REFUSED mark alone. -/
theorem refuse_eq (s : State) (r : RefuseReason) : s.refuse r = { s with refused := some (s.refused.getD r) } := by
  cases h : s.refused <;> simp [State.refuse, h]

end Sys2Proof.Machine
end

