-- ==== Sys2Proof/Laws/Ops.lean ====
section
/-! SUPPORT. What the shared operations do to what is read: registers, groups, slots, and the operations that the commands
are made of. -/

namespace Sys2Proof.Machine

/-! ### Reading after writing -/

@[simp] theorem regRead_mask (s : State) (g : GroupIx) : s.regRead (.mask g) = s.mask.get g := rfl

@[simp] theorem regRead_live (s : State) (g : GroupIx) : s.regRead (.live g) = s.live.get g := rfl

theorem get_set_byGroup {α : Type} (v : Vector α 4) (g h : GroupIx) (x : α) :
    (v.set g x).get h = if g = h then x else v.get h := by
  simp only [Vector.get_eq_getElem, Vector.getElem_set, Fin.ext_iff]

theorem get_set_byBit {α : Type} (v : Vector α 8) (b c : BitIx) (x : α) :
    (v.set b x).get c = if b = c then x else v.get c := by
  simp only [Vector.get_eq_getElem, Vector.getElem_set, Fin.ext_iff]

theorem vector_ext_get {α : Type} {n : Nat} {v w : Vector α n} (h : ∀ i : Fin n, v.get i = w.get i) : v = w :=
  Vector.ext fun i hi => h ⟨i, hi⟩

@[simp] theorem set_get_byGroup {α : Type} (v : Vector α 4) (g : GroupIx) : v.set g (v.get g) = v :=
  vector_ext_get fun i => by rw [get_set_byGroup]; split <;> simp_all

@[simp] theorem set_get_byBit {α : Type} (v : Vector α 8) (b : BitIx) : v.set b (v.get b) = v :=
  vector_ext_get fun i => by rw [get_set_byBit]; split <;> simp_all

theorem group_setGroup (s : State) (g h : GroupIx) (r : GroupState) :
    (s.setGroup g r).group h = if g = h then r else s.group h := get_set_byGroup s.groups g h r

@[simp] theorem setGroup_group (s : State) (g : GroupIx) : s.setGroup g (s.group g) = s := by
  simp [State.setGroup, State.group]

theorem pending_latchRequest (s : State) (g h : GroupIx) (p : Bool) :
    (s.latchRequest g p).pending h = if g = h then s.pending g || p else s.pending h :=
  get_set_byGroup s.pend g h (s.pending g || p)

theorem pending_clearRequest (s : State) (g h : GroupIx) :
    (s.clearRequest g).pending h = if g = h then false else s.pending h := get_set_byGroup s.pend g h false

/-- A read of GRPEN sees the groups that exist and no other bit (10_state.md R28). -/
theorem bitAt_regRead_grpen (s : State) (i : BitIx) :
    bitAt (s.regRead .grpen) i = (bitAt s.grpen i && decide (i.val < s.cfg.nGroups)) := by
  simp [State.regRead, bitAt_grpenImplemented]

theorem groupEnabled_eq (s : State) (g : GroupIx) : s.groupEnabled g = (bitAt s.grpen (enableBit g) && s.cfg.hasGroup g) :=
  bitAt_regRead_grpen s (enableBit g)

/-- What a write of one group's bit leaves in GRPEN. -/
theorem bitAt_grpen_putGroupEnable (s : State) (g : GroupIx) (x : Bool) (i : BitIx) :
    bitAt ((s.putGroupEnable g x).regRead .grpen) i =
      if enableBit g = i then x && s.cfg.hasGroup g else bitAt (s.regRead .grpen) i := by
  have e : bitAt (grpenImplemented s.cfg) i = decide (i.val < s.cfg.nGroups) := bitAt_grpenImplemented s.cfg i
  by_cases h : enableBit g = i
  · subst h
    simp [State.putGroupEnable, State.regRead, bitAt_grpenImplemented_enableBit]
  · simp [State.putGroupEnable, State.regRead, bitAt_setBit_of_ne h, h, e]

/-- The pin operand resolves to a group that exists (00_scope.md R12). -/
theorem hasGroup_of_locate {s : State} {pin : PinId} {g : GroupIx} {b : BitIx} (h : s.locate pin = some (g, b)) :
    s.cfg.hasGroup g = true := by
  unfold State.locate locateOn at h
  split at h
  · cases h
  · split at h
    · cases h; assumption
    · cases h

end Sys2Proof.Machine
end

