-- ==== Sys2Proof/Laws/Registration.lean ====
section
/-! SUPPORT. What the operations of the Registration Protocol do, bit by bit (40_registration.md). -/

namespace Sys2Proof.Machine

section
variable (s : State) (g h : GroupIx) (b k : BitIx)

/-! ### One group's record -/

theorem slotAt_putSlot (c : Option Callback) :
    (s.putSlot g b c).slotAt h k = if g = h ∧ b = k then c else s.slotAt h k := by
  by_cases e : g = h
  · subst e; simp [State.putSlot, State.slotAt, group_setGroup, get_set_byBit]
  · simp [State.putSlot, State.slotAt, group_setGroup, e]

@[simp] theorem rise_putSlot (c : Option Callback) : ((s.putSlot g b c).group h).rise = (s.group h).rise := by
  by_cases e : g = h <;> simp [State.putSlot, group_setGroup, e]

@[simp] theorem fall_putSlot (c : Option Callback) : ((s.putSlot g b c).group h).fall = (s.group h).fall := by
  by_cases e : g = h <;> simp [State.putSlot, group_setGroup, e]

@[simp] theorem state_putSlot (c : Option Callback) : ((s.putSlot g b c).group h).state = (s.group h).state := by
  by_cases e : g = h <;> simp [State.putSlot, group_setGroup, e]

@[simp] theorem slot_putEdges (r f : Bool) : ((s.putEdges g b r f).group h).slot = (s.group h).slot := by
  by_cases e : g = h <;> simp [State.putEdges, group_setGroup, e]

@[simp] theorem state_putEdges (r f : Bool) : ((s.putEdges g b r f).group h).state = (s.group h).state := by
  by_cases e : g = h <;> simp [State.putEdges, group_setGroup, e]

theorem bitAt_rise_putEdges (r f : Bool) :
    bitAt ((s.putEdges g b r f).group h).rise k = if g = h ∧ b = k then r else bitAt (s.group h).rise k := by
  by_cases e : g = h
  · subst e; simp [State.putEdges, group_setGroup, bitAt_setBit]
  · simp [State.putEdges, group_setGroup, e]

theorem bitAt_fall_putEdges (r f : Bool) :
    bitAt ((s.putEdges g b r f).group h).fall k = if g = h ∧ b = k then f else bitAt (s.group h).fall k := by
  by_cases e : g = h
  · subst e; simp [State.putEdges, group_setGroup, bitAt_setBit]
  · simp [State.putEdges, group_setGroup, e]

@[simp] theorem slot_resample : ((s.resample g b).group h).slot = (s.group h).slot := by
  by_cases e : g = h <;> simp [State.resample, group_setGroup, e]

@[simp] theorem rise_resample : ((s.resample g b).group h).rise = (s.group h).rise := by
  by_cases e : g = h <;> simp [State.resample, group_setGroup, e]

@[simp] theorem fall_resample : ((s.resample g b).group h).fall = (s.group h).fall := by
  by_cases e : g = h <;> simp [State.resample, group_setGroup, e]

/-- Only the pin's own bit is re-sampled (40_registration.md R106). -/
theorem bitAt_state_resample :
    bitAt ((s.resample g b).group h).state k =
      if g = h ∧ b = k then bitAt (s.live.get g) b else bitAt (s.group h).state k := by
  by_cases e : g = h
  · subst e; simp [State.resample, group_setGroup, bitAt_setBit]
  · simp [State.resample, group_setGroup, e]

@[simp] theorem slotAt_putEdges (r f : Bool) : (s.putEdges g b r f).slotAt h k = s.slotAt h k := by
  simp [State.slotAt]

@[simp] theorem slotAt_resample : (s.resample g b).slotAt h k = s.slotAt h k := by
  simp [State.slotAt]

/-! ### MASK and GRPEN -/

theorem bitAt_mask_putMaskBit (x : Bool) :
    bitAt ((s.putMaskBit g b x).mask.get h) k = if g = h ∧ b = k then x else bitAt (s.mask.get h) k := by
  by_cases e : g = h
  · subst e; simp [State.putMaskBit, get_set_byGroup, bitAt_setBit]
  · simp [State.putMaskBit, get_set_byGroup, e]

theorem mask_putMaskBit_of_ne (e : g ≠ h) (x : Bool) : (s.putMaskBit g b x).mask.get h = s.mask.get h := by
  simp [State.putMaskBit, get_set_byGroup, e]

theorem groupEnabled_putGroupEnable (x : Bool) :
    (s.putGroupEnable g x).groupEnabled h = if g = h then x && s.cfg.hasGroup g else s.groupEnabled h := by
  simp only [State.groupEnabled, bitAt_grpen_putGroupEnable, enableBit_inj]

end

/-! ### Reads that look at one field alone -/

theorem group_congr {s t : State} (e : t.groups = s.groups) (g : GroupIx) : t.group g = s.group g := by
  simp [State.group, e]

theorem slotAt_congr {s t : State} (e : t.groups = s.groups) (g : GroupIx) (b : BitIx) : t.slotAt g b = s.slotAt g b := by
  simp [State.slotAt, group_congr e]

theorem pending_congr {s t : State} (e : t.pend = s.pend) (g : GroupIx) : t.pending g = s.pending g := by
  simp [State.pending, e]

theorem regRead_grpen_congr {s t : State} (e : t.grpen = s.grpen) (c : t.cfg = s.cfg) :
    t.regRead .grpen = s.regRead .grpen := by
  simp [State.regRead, e, c]

theorem groupEnabled_congr {s t : State} (e : t.grpen = s.grpen) (c : t.cfg = s.cfg) (g : GroupIx) :
    t.groupEnabled g = s.groupEnabled g := by
  simp [State.groupEnabled, regRead_grpen_congr e c]

@[simp] theorem bitAt_grpen_enableBit (s : State) (g : GroupIx) :
    bitAt (s.regRead .grpen) (enableBit g) = s.groupEnabled g := rfl

/-! ### Enabling and disabling a pin -/

/-- What enabling a pin writes: MASK and GRPEN alone (40_registration.md R103, R118). -/
theorem enablePin_frame (s : State) (g : GroupIx) (b : BitIx) :
    s.enablePin g b = { s with mask := (s.enablePin g b).mask, grpen := (s.enablePin g b).grpen } := rfl

theorem bitAt_mask_enablePin (s : State) (g h : GroupIx) (b k : BitIx) :
    bitAt ((s.enablePin g b).mask.get h) k = if g = h ∧ b = k then true else bitAt (s.mask.get h) k := by
  simp [State.enablePin, bitAt_mask_putMaskBit]

theorem groupEnabled_enablePin (s : State) (g h : GroupIx) (b : BitIx) :
    (s.enablePin g b).groupEnabled h = if g = h then s.cfg.hasGroup g else s.groupEnabled h := by
  rw [State.enablePin, groupEnabled_putGroupEnable, groupEnabled_congr (s := s) (t := s.putMaskBit g b true) rfl rfl]
  rfl

/-- What disabling a pin writes: MASK and GRPEN alone (40_registration.md R124). -/
theorem disablePin_frame (s : State) (g : GroupIx) (b : BitIx) :
    s.disablePin g b = { s with mask := (s.disablePin g b).mask, grpen := (s.disablePin g b).grpen } := by
  unfold State.disablePin
  dsimp only
  split <;> rfl

theorem mask_disablePin (s : State) (g : GroupIx) (b : BitIx) :
    (s.disablePin g b).mask = (s.putMaskBit g b false).mask := by
  unfold State.disablePin
  dsimp only
  split <;> rfl

theorem bitAt_mask_disablePin (s : State) (g h : GroupIx) (b k : BitIx) :
    bitAt ((s.disablePin g b).mask.get h) k = if g = h ∧ b = k then false else bitAt (s.mask.get h) k := by
  rw [mask_disablePin, bitAt_mask_putMaskBit]

/-- The group-enable bit after disabling a pin: cleared when no mask bit is left, else as before (40_registration.md R112,
R124). -/
theorem groupEnabled_disablePin (s : State) (g h : GroupIx) (b : BitIx) :
    (s.disablePin g b).groupEnabled h =
      if g = h ∧ (s.disablePin g b).mask.get g = 0x00#8 then false else s.groupEnabled h := by
  rw [mask_disablePin]
  unfold State.disablePin
  dsimp only
  split
  · rename_i z
    rw [regRead_mask] at z
    rw [groupEnabled_putGroupEnable, groupEnabled_congr (s := s) (t := s.putMaskBit g b false) rfl rfl]
    by_cases e : g = h <;> simp [e, z]
    subst e; simp [z]
  · rename_i z
    rw [regRead_mask] at z
    rw [groupEnabled_congr (s := s) (t := s.putMaskBit g b false) rfl rfl]
    simp [z]

/-- GRPEN's other bits after disabling a pin. -/
theorem bitAt_grpen_disablePin_of_ne (s : State) (g : GroupIx) (b i : BitIx) (h : i ≠ enableBit g) :
    bitAt ((s.disablePin g b).regRead .grpen) i = bitAt (s.regRead .grpen) i := by
  unfold State.disablePin
  dsimp only
  split
  · rw [bitAt_grpen_putGroupEnable, if_neg (Ne.symm h)]
    rfl
  · rfl

/-! ### Whole bodies, as what is read after them -/

/-- What the body of ATTACH leaves when FN is not null (40_registration.md R103). -/
theorem attachAt_some {s : State} {fn : FnRef} (hf : s.portFn = some fn) (mode : ModeField) (g : GroupIx) (b : BitIx) :
    s.attachAt mode g b =
      ((((s.putSlot g b (some { fn := fn, arg := s.portArg })).putEdges g b (wantsRise mode)
        (wantsFall mode)).enablePin g b).resample g b).latchDraw g := by
  simp [State.attachAt, hf]

/-- The body of ATTACH does nothing when FN is null (40_registration.md R104). -/
theorem attachAt_none {s : State} (hf : s.portFn = none) (mode : ModeField) (g : GroupIx) (b : BitIx) :
    s.attachAt mode g b = s := by
  simp [State.attachAt, hf]

/-- What the body of ENABLE leaves on a populated slot (40_registration.md R118). -/
theorem enableAt_some {s : State} {g : GroupIx} {b : BitIx} {c : Callback} (h : s.slotAt g b = some c) :
    s.enableAt g b = ((s.enablePin g b).resample g b).latchDraw g := by
  simp [State.enableAt, h]

/-- The body of ENABLE does nothing on an empty slot (40_registration.md R119). -/
theorem enableAt_none {s : State} {g : GroupIx} {b : BitIx} (h : s.slotAt g b = none) : s.enableAt g b = s := by
  simp [State.enableAt, h]

/-- Activating a pin: its mask bit and its group's enable bit are set, its bit of `state` is re-sampled, and a free draw is
latched (the common end of ATTACH and ENABLE, 40_registration.md R103, R118). -/
theorem activate_reads (s : State) (g : GroupIx) (b : BitIx) :
    let t := ((s.enablePin g b).resample g b).latchDraw g
    (∀ h, (t.group h).slot = (s.group h).slot) ∧ (∀ h, (t.group h).rise = (s.group h).rise) ∧
    (∀ h, (t.group h).fall = (s.group h).fall) ∧
    (∀ h k, bitAt (t.group h).state k = if g = h ∧ b = k then bitAt (s.live.get g) b else bitAt (s.group h).state k) ∧
    (∀ h k, bitAt (t.mask.get h) k = if g = h ∧ b = k then true else bitAt (s.mask.get h) k) ∧
    (∀ i, bitAt (t.regRead .grpen) i = if enableBit g = i then s.cfg.hasGroup g else bitAt (s.regRead .grpen) i) ∧
    (∀ h, t.groupEnabled h = if g = h then s.cfg.hasGroup g else s.groupEnabled h) ∧
    (∀ h, t.pending h = if g = h then s.pending g || Config.midCommandChange s.draws else s.pending h) ∧
    t = { s with groups := t.groups, mask := t.mask, grpen := t.grpen, pend := t.pend, draws := s.draws + 1 } := by
  dsimp only
  have gr : ∀ h, ((((s.enablePin g b).resample g b).latchDraw g).group h) = ((s.enablePin g b).resample g b).group h :=
    fun h => group_congr rfl h
  have ge : ∀ h, (s.enablePin g b).group h = s.group h := fun h => group_congr rfl h
  refine ⟨fun h => ?_, fun h => ?_, fun h => ?_, fun h k => ?_, fun h k => bitAt_mask_enablePin s g h b k, fun i => ?_,
    fun h => ?_, fun h => pending_latchRequest _ g h _, rfl⟩
  · rw [gr, slot_resample, ge]
  · rw [gr, rise_resample, ge]
  · rw [gr, fall_resample, ge]
  · rw [gr, bitAt_state_resample, ge]
    rfl
  · exact bitAt_grpen_putGroupEnable (s.putMaskBit g b true) g true i
  · exact groupEnabled_enablePin s g h b

/-- The body of ENABLE on a populated slot (40_registration.md R118), read field by field. -/
theorem enableAt_reads {s : State} {g : GroupIx} {b : BitIx} {c : Callback} (hs : s.slotAt g b = some c) :
    let t := s.enableAt g b
    (∀ h, (t.group h).slot = (s.group h).slot) ∧ (∀ h, (t.group h).rise = (s.group h).rise) ∧
    (∀ h, (t.group h).fall = (s.group h).fall) ∧
    (∀ h k, bitAt (t.group h).state k = if g = h ∧ b = k then bitAt (s.live.get g) b else bitAt (s.group h).state k) ∧
    (∀ h k, bitAt (t.mask.get h) k = if g = h ∧ b = k then true else bitAt (s.mask.get h) k) ∧
    (∀ i, bitAt (t.regRead .grpen) i = if enableBit g = i then s.cfg.hasGroup g else bitAt (s.regRead .grpen) i) ∧
    (∀ h, t.groupEnabled h = if g = h then s.cfg.hasGroup g else s.groupEnabled h) ∧
    (∀ h, t.pending h = if g = h then s.pending g || Config.midCommandChange s.draws else s.pending h) ∧
    t = { s with groups := t.groups, mask := t.mask, grpen := t.grpen, pend := t.pend, draws := s.draws + 1 } := by
  rw [enableAt_some hs]
  exact activate_reads s g b

/-- The body of ATTACH with a callback (40_registration.md R103), read field by field: bit `b` of group `g` is written, and
every other bit of every group reads as before. -/
theorem attachAt_reads {s : State} {fn : FnRef} (hf : s.portFn = some fn) (mode : ModeField) (g : GroupIx) (b : BitIx) :
    let t := s.attachAt mode g b
    (∀ h k, t.slotAt h k = if g = h ∧ b = k then some { fn := fn, arg := s.portArg } else s.slotAt h k) ∧
    (∀ h k, bitAt (t.group h).rise k = if g = h ∧ b = k then wantsRise mode else bitAt (s.group h).rise k) ∧
    (∀ h k, bitAt (t.group h).fall k = if g = h ∧ b = k then wantsFall mode else bitAt (s.group h).fall k) ∧
    (∀ h k, bitAt (t.group h).state k = if g = h ∧ b = k then bitAt (s.live.get g) b else bitAt (s.group h).state k) ∧
    (∀ h k, bitAt (t.mask.get h) k = if g = h ∧ b = k then true else bitAt (s.mask.get h) k) ∧
    (∀ i, bitAt (t.regRead .grpen) i = if enableBit g = i then s.cfg.hasGroup g else bitAt (s.regRead .grpen) i) ∧
    (∀ h, t.groupEnabled h = if g = h then s.cfg.hasGroup g else s.groupEnabled h) ∧
    (∀ h, t.pending h = if g = h then s.pending g || Config.midCommandChange s.draws else s.pending h) ∧
    t = { s with groups := t.groups, mask := t.mask, grpen := t.grpen, pend := t.pend, draws := s.draws + 1 } := by
  dsimp only
  rw [attachAt_some hf]
  obtain ⟨sl, ri, fa, st, ma, gb, ge, pe, fr⟩ := activate_reads
    ((s.putSlot g b (some { fn := fn, arg := s.portArg })).putEdges g b (wantsRise mode) (wantsFall mode)) g b
  refine ⟨fun h k => ?_, fun h k => ?_, fun h k => ?_, fun h k => ?_, ma, gb, ge, pe, rfl⟩
  · rw [State.slotAt, sl, ← State.slotAt, slotAt_putEdges, slotAt_putSlot]
  · rw [ri, bitAt_rise_putEdges, rise_putSlot]
  · rw [fa, bitAt_fall_putEdges, fall_putSlot]
  · rw [st, state_putEdges, state_putSlot]
    rfl

/-- The body of DETACH (40_registration.md R111), read field by field. -/
theorem detachAt_reads (s : State) (g : GroupIx) (b : BitIx) :
    let t := s.detachAt g b
    (∀ h k, t.slotAt h k = if g = h ∧ b = k then none else s.slotAt h k) ∧
    (∀ h k, bitAt (t.group h).rise k = if g = h ∧ b = k then false else bitAt (s.group h).rise k) ∧
    (∀ h k, bitAt (t.group h).fall k = if g = h ∧ b = k then false else bitAt (s.group h).fall k) ∧
    (∀ h, (t.group h).state = (s.group h).state) ∧
    (∀ h k, bitAt (t.mask.get h) k = if g = h ∧ b = k then false else bitAt (s.mask.get h) k) ∧
    (∀ h, t.groupEnabled h = if g = h ∧ t.mask.get g = 0x00#8 then false else s.groupEnabled h) ∧
    t = { s with groups := t.groups, mask := t.mask, grpen := t.grpen } := by
  dsimp only
  have fr := disablePin_frame ((s.putSlot g b none).putEdges g b false false) g b
  have gr : (s.detachAt g b).groups = ((s.putSlot g b none).putEdges g b false false).groups := by
    rw [State.detachAt, fr]
  refine ⟨fun h k => ?_, fun h k => ?_, fun h k => ?_, fun h => ?_, fun h k => ?_, fun h => ?_, ?_⟩
  · rw [slotAt_congr gr, slotAt_putEdges, slotAt_putSlot]
  · rw [group_congr gr, bitAt_rise_putEdges, rise_putSlot]
  · rw [group_congr gr, bitAt_fall_putEdges, fall_putSlot]
  · rw [group_congr gr, state_putEdges, state_putSlot]
  · rw [State.detachAt, bitAt_mask_disablePin]
    rfl
  · rw [State.detachAt, groupEnabled_disablePin]
    rfl
  · rw [State.detachAt, fr]
    rfl

end Sys2Proof.Machine
end

