-- ==== Sys2Proof/Laws/Step.lean ====
section
/-! SUPPORT. What a step can do, said once: an inversion lemma for the step, one for the sequencer's step and one for an
executed instruction. Claims about every step are derived from these. -/

namespace Sys2Proof.Machine

/-- The turn that an idle step takes away. -/
def State.turnTaken (s : State) : State := { s with turns := s.turns.tail }

/-- The step of a state that is not stopped. -/
theorem advance_of_running {s : State} (h : s.running) :
    s.advance = match s.turns with
      | [] => .next s.ownStep
      | t :: rest => { s with turns := rest }.takeTurn t := by
  obtain ⟨hf, hr⟩ := h
  simp [State.advance, hf, hr] <;> rfl

/-- The step on the sequencer's turn. -/
theorem step_sequencer {s : State} (hr : s.running) {g : GroupIx} {ts : List Turn} (ht : s.turns = .sequencer g :: ts) :
    step s = .next (State.sequencerTurn { s with turns := ts } g) := by
  rw [step, advance_of_running hr, ht]
  rfl

/-- The step on the mainline's turn, when it may issue its next command. -/
theorem step_mainline {s : State} (hr : s.running) {c : Command} {rest : List Command} {ts : List Turn}
    (ht : s.turns = .mainline :: ts) (hc : s.mainlineCmds = c :: rest) (hi : s.seq = .idle) :
    step s = State.issue { s with turns := ts, mainlineCmds := rest } .mainline c := by
  rw [step, advance_of_running hr, ht]
  simp [State.takeTurn, State.mainlineTurn, hc, hi]

/-- The step on the callback's turn, when it may issue its next command. -/
theorem step_callback {s : State} (hr : s.running) {c : Command} {rest : List Command} {ts : List Turn}
    (ht : s.turns = .callback :: ts) (hc : s.callbackCmds = c :: rest) (hi : s.callbackRuns = true) :
    step s = State.issue { s with turns := ts, callbackCmds := rest } .callback c := by
  rw [step, advance_of_running hr, ht]
  simp only [State.takeTurn, State.callbackTurn, hc]
  exact if_pos hi

/-- The step on the callback's turn, while no callback runs: the turn alone passes. -/
theorem step_callback_idle {s : State} (hr : s.running) {ts : List Turn} (ht : s.turns = .callback :: ts)
    (hi : s.callbackRuns = false) : step s = .next { s with turns := ts } := by
  rw [step, advance_of_running hr, ht]
  simp only [State.takeTurn, State.callbackTurn]
  have e : State.callbackRuns { s with turns := ts } = false := hi
  split <;> simp [e]

/-- The step on the pin environment's turn, with its next command. -/
theorem step_pinEnvironment {s : State} (hr : s.running) {c : Command} {rest : List Command} {ts : List Turn}
    (ht : s.turns = .pinEnvironment :: ts) (hc : s.pinCmds = c :: rest) :
    step s = State.issue { s with turns := ts, pinCmds := rest } .pinEnvironment c := by
  rw [step, advance_of_running hr, ht]
  simp [State.takeTurn, State.pinTurn, hc]

/-- A state with a next state is not stopped (10_state.md R36). -/
theorem running_of_step {s t : State} (h : step s = .next t) : s.running := by
  unfold step State.advance at h
  split at h <;> first | exact ⟨by assumption, by assumption⟩ | cases h

/-- Issuing a command (30_encoding.md R78, R80, R81): its instruction is executed, or its reserved word refused. -/
theorem issue_cases {s : State} {a : Agent} {c : Command} {t : State} (h : s.issue a c = .next t) :
    (∃ i, decode c.word = .command i ∧ exec i (s.present a c) = .next t) ∨
    (∃ k, decode c.word = .reserved k ∧ t = (s.present a c).refuse .reservedEncoding) := by
  unfold State.issue at h
  split at h
  · exact .inl ⟨_, ‹_›, h⟩
  · cases h; exact .inr ⟨_, ‹_›, rfl⟩

/-- A step that answers a next state: the turn alone passes, or the sequencer moves, or an agent issues a command, which is
executed or refused as reserved. -/
theorem step_cases {s t : State} (h : step s = .next t) :
    s.running ∧
    (t = s.turnTaken ∨
    (∃ g u, s.turnTaken.sequencerStep g = some u ∧ (t = u ∨ t = { u with picks := s.picks + 1 })) ∨
    (∃ a c, s.nextIssue = some (a, c) ∧
      ((∃ i, decode c.word = .command i ∧ exec i (s.fetched a c) = .next t) ∨
       (∃ k, decode c.word = .reserved k ∧ t = (s.fetched a c).refuse .reservedEncoding)))) := by
  have hr := running_of_step h
  refine ⟨hr, ?_⟩
  rw [step, advance_of_running hr] at h
  split at h
  · rename_i e
    have es : s.turnTaken = s := by simp [State.turnTaken, e]; rw [← e]
    rw [es]
    cases h
    unfold State.ownStep
    split
    · split
      · exact .inl rfl
      · rename_i g hg
        have tk : s.takeEnabled g = true := by
          unfold State.firstTakeable at hg
          exact List.find?_some hg
        exact .inr (.inl ⟨g, s.take g, by simp [State.sequencerStep, *], .inr rfl⟩)
    · unfold State.sequencerTurn
      split
      · exact .inl rfl
      · exact .inr (.inl ⟨_, _, ‹_›, .inl rfl⟩)
    · unfold State.sequencerTurn
      split
      · exact .inl rfl
      · exact .inr (.inl ⟨_, _, ‹_›, .inl rfl⟩)
    · exact .inl rfl
  · rename_i turn rest e
    have es : ({ s with turns := rest } : State) = s.turnTaken := by simp [State.turnTaken, e]
    cases turn with
    | mainline =>
      simp only [State.takeTurn, State.mainlineTurn] at h
      split at h
      · cases h; exact .inl es
      · rename_i c cs hc
        split at h
        · rename_i idle
          have hc' : s.mainlineCmds = c :: cs := hc
          have idle' : s.seq = .idle := idle
          exact .inr (.inr ⟨.mainline, c, by simp [State.nextIssue, e, hc', idle'],
            by simpa [State.fetched, e, hc'] using issue_cases h⟩)
        · cases h; exact .inl es
    | pinEnvironment =>
      simp only [State.takeTurn, State.pinTurn] at h
      split at h
      · cases h; exact .inl es
      · rename_i c cs hc
        have hc' : s.pinCmds = c :: cs := hc
        exact .inr (.inr ⟨.pinEnvironment, c, by simp [State.nextIssue, e, hc'],
          by simpa [State.fetched, e, hc'] using issue_cases h⟩)
    | callback =>
      simp only [State.takeTurn, State.callbackTurn] at h
      split at h
      · cases h; exact .inl es
      · rename_i c cs hc
        split at h
        · rename_i runs
          have hc' : s.callbackCmds = c :: cs := hc
          have runs' : s.callbackRuns = true := runs
          exact .inr (.inr ⟨.callback, c, by simp [State.nextIssue, e, hc', runs'],
            by simpa [State.fetched, e, hc'] using issue_cases h⟩)
        · cases h; exact .inl es
    | sequencer g =>
      simp only [State.takeTurn, State.sequencerTurn, es] at h
      split at h
      · cases h; exact .inl rfl
      · cases h; exact .inr (.inl ⟨g, _, ‹_›, .inl rfl⟩)

/-! ### The sequencer's turn, phase by phase -/

theorem takeEnabled_idle {s : State} {g : GroupIx} (h : s.takeEnabled g = true) : s.seq = .idle := by
  simp [State.takeEnabled] at h
  tauto

theorem takeEnabled_gie {s : State} {g : GroupIx} (h : s.takeEnabled g = true) : s.gie = true := by
  simp [State.takeEnabled] at h
  tauto

theorem takeEnabled_running {s : State} {g : GroupIx} (h : s.takeEnabled g = true) : s.running := by
  simp [State.takeEnabled] at h
  exact ⟨h.1.2, h.2⟩

theorem sequencerTurn_take {s : State} {g : GroupIx} (h : s.takeEnabled g = true) : s.sequencerTurn g = s.take g := by
  simp [State.sequencerTurn, State.sequencerStep, takeEnabled_idle h, h]

theorem sequencerTurn_not_taken {s : State} {g : GroupIx} (hs : s.seq = .idle) (h : s.takeEnabled g = false) :
    s.sequencerTurn g = s := by
  simp [State.sequencerTurn, State.sequencerStep, hs, h]

theorem sequencerTurn_sample {s : State} {g : GroupIx} {saved : Bool} {d : Nat} (hs : s.seq = .entered g saved d)
    (p : GroupIx) : s.sequencerTurn p = s.sample g saved d := by
  simp [State.sequencerTurn, State.sequencerStep, hs]

theorem sequencerTurn_invoke {s : State} {g : GroupIx} {saved : Bool} {d : Nat} {trig lvl : Byte} {i : BitIx} {c : Callback}
    (hs : s.seq = .invoke g saved d trig lvl i.castSucc) (hb : bitAt trig i = true) (hc : s.slotAt g i = some c)
    (p : GroupIx) : s.sequencerTurn p = s.invokeCallback g saved d trig lvl i c := by
  simp [State.sequencerTurn, State.sequencerStep, hs, State.examineBit, hb, hc]

theorem sequencerTurn_skip {s : State} {g : GroupIx} {saved : Bool} {d : Nat} {trig lvl : Byte} {i : BitIx}
    (hs : s.seq = .invoke g saved d trig lvl i.castSucc) (h : bitAt trig i = false ∨ s.slotAt g i = none)
    (p : GroupIx) : s.sequencerTurn p = s.skipBit g saved d trig lvl i := by
  rcases h with h | h
  · simp [State.sequencerTurn, State.sequencerStep, hs, State.examineBit, h]
  · cases hb : bitAt trig i <;> simp [State.sequencerTurn, State.sequencerStep, hs, State.examineBit, hb, h]

theorem sequencerTurn_reti {s : State} {g : GroupIx} {saved : Bool} {d : Nat} {trig lvl : Byte}
    (hs : s.seq = .invoke g saved d trig lvl 8) (p : GroupIx) : s.sequencerTurn p = s.reti g saved d := by
  simp [State.sequencerTurn, State.sequencerStep, hs]

/-- The sequencer's step: TAKE, SAMPLE, INVOKE, SKIP or RETI (30_encoding.md R84), each with the phase it is enabled in. -/
theorem sequencerStep_cases {s u : State} {p : GroupIx} (h : s.sequencerStep p = some u) :
    (s.takeEnabled p = true ∧ u = s.take p) ∨
    (∃ g saved d, s.seq = .entered g saved d ∧ u = s.sample g saved d) ∨
    (∃ g saved d trig lvl, ∃ i : BitIx, ∃ c, s.seq = .invoke g saved d trig lvl i.castSucc ∧ bitAt trig i = true ∧
      s.slotAt g i = some c ∧ u = s.invokeCallback g saved d trig lvl i c) ∨
    (∃ g saved d trig lvl, ∃ i : BitIx, s.seq = .invoke g saved d trig lvl i.castSucc ∧
      (bitAt trig i = false ∨ s.slotAt g i = none) ∧ u = s.skipBit g saved d trig lvl i) ∨
    (∃ g saved d trig lvl, s.seq = .invoke g saved d trig lvl 8 ∧ u = s.reti g saved d) := by
  unfold State.sequencerStep at h
  split at h
  · split at h
    · cases h; exact .inl ⟨‹_›, rfl⟩
    · cases h
  · cases h; exact .inr (.inl ⟨_, _, _, ‹_›, rfl⟩)
  · rename_i g saved d trig lvl i e
    split at h
    · rename_i lt
      have ei : i = (⟨i.val, lt⟩ : BitIx).castSucc := rfl
      cases h
      unfold State.examineBit
      split
      · exact .inr (.inr (.inl ⟨g, saved, d, trig, lvl, ⟨i.val, lt⟩, _, ei ▸ e, ‹_›, ‹_›, rfl⟩))
      · exact .inr (.inr (.inr (.inl ⟨g, saved, d, trig, lvl, ⟨i.val, lt⟩, ei ▸ e, .inr ‹_›, rfl⟩)))
      · exact .inr (.inr (.inr (.inl ⟨g, saved, d, trig, lvl, ⟨i.val, lt⟩, ei ▸ e, .inl ‹_›, rfl⟩)))
    · rename_i nlt
      have ei : i = 8 := by apply Fin.ext; simp; omega
      cases h
      exact .inr (.inr (.inr (.inr ⟨g, saved, d, trig, lvl, ei ▸ e, rfl⟩)))
  · cases h

/-- An executed instruction always answers a next state: the refusal of a wrong issuer, or the instruction's own effect. -/
theorem exec_cases {i : Instr} {s t : State} (h : exec i s = .next t) :
    (mayIssue s.issuer i = false ∧ t = s.refuse .wrongAgent) ∨
    (mayIssue s.issuer i = true ∧
      match i with
      | .attach pin mode => t = s.atPin pin (s.attachAt mode)
      | .detach pin => t = s.atPin pin s.detachAt
      | .enable pin => t = s.atPin pin s.enableAt
      | .disable pin => t = s.atPin pin s.disablePin
      | .csenter => t = s.enterSection
      | .csexit => t = s.exitSection
      | .setgie e => t = if s.seq = .idle then { s with gie := e } else s.refuse .wrongAgent
      | .pinwrite g v => t = if s.cfg.hasGroup g then s.drivePins g v else s.refuse .noSuchGroup
      | .cbret => t = s.callbackReturn) := by
  cases i <;> simp only [exec, execAttach, execDetach, execEnable, execDisable, execCsenter, execCsexit, execSetgie,
    execPinwrite, execCbret, State.issued, Host.Outcome.next.injEq] at h <;> split at h <;> simp_all

/-- Every instruction answers a next state on every state. -/
theorem exec_next (i : Instr) (s : State) : ∃ t, exec i s = .next t := by
  cases i <;> exact ⟨_, rfl⟩

/-- The body of a registration command: nothing on an unresolved pin, or the body at its place (40_registration.md R100). -/
theorem atPin_cases (s : State) (pin : PinId) (body : GroupIx → BitIx → State) :
    (s.locate pin = none ∧ s.atPin pin body = s) ∨
    (∃ g b, s.locate pin = some (g, b) ∧ s.atPin pin body = body g b) := by
  unfold State.atPin
  split
  · exact .inl ⟨‹_›, rfl⟩
  · exact .inr ⟨_, _, ‹_›, rfl⟩

end Sys2Proof.Machine
end

