-- ==== Sys2Proof/Laws/Effects.lean ====
section
/-! SUPPORT. What an executed instruction can do, said once, and what a registration command leaves alone. -/

namespace Sys2Proof.Machine

/-- `t` is what the body of a registration command leaves of `s` at bit `b` of group `g` (40_registration.md R103, R111,
R118, R124). -/
def State.Registered (s t : State) (g : GroupIx) (b : BitIx) : Prop :=
  (∃ fn mode, s.portFn = some fn ∧ t = s.attachAt mode g b) ∨ t = s.detachAt g b ∨
  (∃ c, s.slotAt g b = some c ∧ t = s.enableAt g b) ∨ t = s.disablePin g b

/-! ### Issuers -/

theorem byProgram_issuer {s : State} (h : s.byProgram) : (s.issuer == .mainline || s.issuer == .callback) = true := by
  rcases h with h | h <;> simp [h]

theorem exec_attach_byProgram {s : State} (h : s.byProgram) (pin : PinId) (mode : ModeField) :
    exec (.attach pin mode) s = .next (s.atPin pin (s.attachAt mode)) := by
  simp [exec, execAttach, State.issued, mayIssue, byProgram_issuer h]

theorem exec_detach_byProgram {s : State} (h : s.byProgram) (pin : PinId) :
    exec (.detach pin) s = .next (s.atPin pin s.detachAt) := by
  simp [exec, execDetach, State.issued, mayIssue, byProgram_issuer h]

theorem exec_enable_byProgram {s : State} (h : s.byProgram) (pin : PinId) :
    exec (.enable pin) s = .next (s.atPin pin s.enableAt) := by
  simp [exec, execEnable, State.issued, mayIssue, byProgram_issuer h]

theorem exec_disable_byProgram {s : State} (h : s.byProgram) (pin : PinId) :
    exec (.disable pin) s = .next (s.atPin pin s.disablePin) := by
  simp [exec, execDisable, State.issued, mayIssue, byProgram_issuer h]

/-- Who issues the next command, and when (10_state.md R34). -/
theorem nextIssue_issuer {s : State} {a : Agent} {c : Command} (h : s.nextIssue = some (a, c)) :
    (s.fetched a c).issuer = a ∧ a ≠ .sequencer ∧ (a = .mainline → s.seq = .idle) ∧ (a = .callback → s.seq ≠ .idle) ∧
    (s.seq ≠ .idle → (s.fetched a c).mainlineCmds = s.mainlineCmds) := by
  unfold State.nextIssue at h
  split at h
  · split at h
    · rename_i hi
      simp at h
      obtain ⟨_, _, rfl, rfl⟩ := h
      exact ⟨rfl, by simp, fun _ => hi, by simp, fun h => absurd hi h⟩
    · cases h
  · simp at h
    obtain ⟨_, _, rfl, rfl⟩ := h
    exact ⟨rfl, by simp, by simp, by simp, fun _ => rfl⟩
  · split at h
    · rename_i hi
      simp at h
      obtain ⟨_, _, rfl, rfl⟩ := h
      exact ⟨rfl, by simp, by simp, fun _ e => by simp [State.callbackRuns, e] at hi, fun _ => rfl⟩
    · cases h
  · cases h
  · cases h

/-- Presenting a command changes nothing of the block itself. -/
theorem fetched_frame (s : State) (a : Agent) (c : Command) :
    s.fetched a c = { s with
      turns := (s.fetched a c).turns, mainlineCmds := (s.fetched a c).mainlineCmds,
      callbackCmds := (s.fetched a c).callbackCmds, pinCmds := (s.fetched a c).pinCmds,
      issuer := (s.fetched a c).issuer, portFn := (s.fetched a c).portFn, portArg := (s.fetched a c).portArg } := by
  cases a <;> rfl

/-- Opening a critical section (41_critical_section.md R141). -/
theorem exec_csenter_byProgram {s : State} (h : s.byProgram) : exec .csenter s = .next s.enterSection := by
  simp [exec, execCsenter, State.issued, mayIssue, byProgram_issuer h]

/-- Closing a critical section with one open (41_critical_section.md R144; in a dispatch GIE stays 0, log 15). -/
theorem exec_csexit_byProgram {s : State} (h : s.byProgram) {saved : Bool} {rest : List Bool}
    (hc : s.csStack = saved :: rest) :
    exec .csexit s = .next { s with gie := saved && decide (s.seq = .idle), csStack := rest } := by
  simp [exec, execCsexit, State.issued, mayIssue, byProgram_issuer h, State.exitSection, hc]

/-- Where GIE is 0 in a dispatch, the restored value is GIE itself (41_critical_section.md R150). -/
theorem gie_restored {s : State} (h : s.gieClearInDispatch) : (s.gie && decide (s.seq = .idle)) = s.gie := by
  by_cases e : s.seq = .idle
  · simp [e]
  · simp [h e]

/-- A group that is enabled exists (10_state.md R28). -/
theorem hasGroup_of_groupEnabled {s : State} {g : GroupIx} (h : s.groupEnabled g = true) : s.cfg.hasGroup g = true := by
  rw [groupEnabled_eq, Bool.and_eq_true] at h
  exact h.2

/-! ### Effects -/

/-- What an executed instruction leaves, whichever it is. -/
theorem exec_effects {i : Instr} {s t : State} (h : exec i s = .next t) :
    t = s ∨ (∃ r, t = s.refuse r) ∨ (∃ r, t = s.raise r) ∨
    (mayIssue s.issuer i = true ∧ ∃ pin g b, pinOperand i = some pin ∧ s.locate pin = some (g, b) ∧ s.Registered t g b) ∨
    (i = .csenter ∧ mayIssue s.issuer i = true ∧ t = s.enterSection) ∨
    (i = .csexit ∧ mayIssue s.issuer i = true ∧
      ∃ saved rest, s.csStack = saved :: rest ∧
        t = { s with gie := saved && decide (s.seq = .idle), csStack := rest }) ∨
    (∃ e, i = .setgie e ∧ s.seq = .idle ∧ mayIssue s.issuer i = true ∧ t = { s with gie := e }) ∨
    (∃ g v, i = .pinwrite g v ∧ s.issuer = .pinEnvironment ∧ s.cfg.hasGroup g = true ∧ t = s.drivePins g v) ∨
    (i = .cbret ∧ mayIssue s.issuer i = true ∧ ∃ g saved d trig lvl, ∃ k : BitIx, s.seq = .inCallback g saved d trig lvl k ∧
      t = { s with seq := .invoke g saved d trig lvl k.succ }) := by
  rcases exec_cases h with ⟨_, h⟩ | ⟨hm, h⟩
  · exact .inr (.inl ⟨_, h⟩)
  cases i with
  | attach pin mode =>
    rcases atPin_cases s pin (s.attachAt mode) with ⟨hl, e⟩ | ⟨g, b, hl, e⟩
    · exact .inl (h.trans e)
    · cases hf : s.portFn with
      | none => exact .inl (h.trans (e.trans (attachAt_none hf _ _ _)))
      | some fn => exact .inr (.inr (.inr (.inl ⟨hm, pin, g, b, rfl, hl, .inl ⟨fn, mode, hf, h.trans e⟩⟩)))
  | detach pin =>
    rcases atPin_cases s pin s.detachAt with ⟨hl, e⟩ | ⟨g, b, hl, e⟩
    · exact .inl (h.trans e)
    · exact .inr (.inr (.inr (.inl ⟨hm, pin, g, b, rfl, hl, .inr (.inl (h.trans e))⟩)))
  | enable pin =>
    rcases atPin_cases s pin s.enableAt with ⟨hl, e⟩ | ⟨g, b, hl, e⟩
    · exact .inl (h.trans e)
    · cases hs : s.slotAt g b with
      | none => exact .inl (h.trans (e.trans (enableAt_none hs)))
      | some c => exact .inr (.inr (.inr (.inl ⟨hm, pin, g, b, rfl, hl, .inr (.inr (.inl ⟨c, hs, h.trans e⟩))⟩)))
  | disable pin =>
    rcases atPin_cases s pin s.disablePin with ⟨hl, e⟩ | ⟨g, b, hl, e⟩
    · exact .inl (h.trans e)
    · exact .inr (.inr (.inr (.inl ⟨hm, pin, g, b, rfl, hl, .inr (.inr (.inr (h.trans e)))⟩)))
  | csenter => exact .inr (.inr (.inr (.inr (.inl ⟨rfl, hm, h⟩))))
  | csexit =>
    change t = s.exitSection at h
    unfold State.exitSection at h
    split at h
    · exact .inr (.inr (.inl ⟨_, h⟩))
    · exact .inr (.inr (.inr (.inr (.inr (.inl ⟨rfl, hm, _, _, ‹_›, h⟩)))))
  | setgie e =>
    dsimp only at h
    split at h
    · exact .inr (.inr (.inr (.inr (.inr (.inr (.inl ⟨e, rfl, ‹_›, hm, h⟩))))))
    · exact .inr (.inl ⟨_, h⟩)
  | pinwrite g v =>
    dsimp only at h
    split at h
    · exact .inr (.inr (.inr (.inr (.inr (.inr (.inr (.inl ⟨g, v, rfl, by simpa [mayIssue] using hm, ‹_›, h⟩)))))))
    · exact .inr (.inl ⟨_, h⟩)
  | cbret =>
    change t = s.callbackReturn at h
    unfold State.callbackReturn at h
    split at h
    · split at h
      · exact .inr (.inr (.inr (.inr (.inr (.inr (.inr (.inr ⟨rfl, hm, _, _, _, _, _, _, ‹_›, h⟩)))))))
      · exact .inr (.inr (.inl ⟨_, h⟩))
    all_goals exact .inr (.inl ⟨_, h⟩)

/-! ### What a registration command leaves alone -/

theorem registered_frame {s t : State} {g : GroupIx} {b : BitIx} (h : s.Registered t g b) :
    t = { s with groups := t.groups, mask := t.mask, grpen := t.grpen, pend := t.pend, draws := t.draws } := by
  rcases h with ⟨fn, mode, hf, rfl⟩ | rfl | ⟨c, hs, rfl⟩ | rfl
  · rw [attachAt_some hf]; rfl
  · rw [(detachAt_reads s g b).2.2.2.2.2.2]
  · rw [enableAt_some hs]; rfl
  · rw [disablePin_frame]

/-- A registration command leaves every other group alone (20_memory.md R64). -/
theorem registered_other {s t : State} {g h : GroupIx} {b : BitIx} (hne : g ≠ h) (e : s.Registered t g b) :
    t.group h = s.group h ∧ t.mask.get h = s.mask.get h ∧ t.groupEnabled h = s.groupEnabled h := by
  rcases e with ⟨fn, mode, hf, rfl⟩ | rfl | ⟨c, hs, rfl⟩ | rfl
  · obtain ⟨_, _, _, _, ma, _, ge, _, _⟩ := attachAt_reads hf mode g b
    have e1 : (s.attachAt mode g b).groups.get h = s.groups.get h := by
      rw [attachAt_some hf]
      simp [State.latchDraw, State.latchRequest, State.resample, State.setGroup, State.putEdges, State.putSlot,
        get_set_byGroup, hne, State.enablePin, State.putMaskBit, State.putGroupEnable, State.regWrite]
    exact ⟨e1, byte_ext fun k => by simp [ma, hne], by simp [ge, hne]⟩
  · obtain ⟨_, _, _, _, ma, ge, _⟩ := detachAt_reads s g b
    have e1 : (s.detachAt g b).groups.get h = s.groups.get h := by
      rw [State.detachAt, disablePin_frame]
      simp [State.setGroup, State.putEdges, State.putSlot, get_set_byGroup, hne]
    exact ⟨e1, byte_ext fun k => by simp [ma, hne], by simp [ge, hne]⟩
  · obtain ⟨_, _, _, _, ma, _, ge, _, _⟩ := enableAt_reads hs
    have e1 : (s.enableAt g b).groups.get h = s.groups.get h := by
      rw [enableAt_some hs]
      simp [State.latchDraw, State.latchRequest, State.resample, State.setGroup, get_set_byGroup, hne, State.enablePin]
    exact ⟨e1, byte_ext fun k => by simp [ma, hne], by simp [ge, hne]⟩
  · have ma := bitAt_mask_disablePin s g
    have ge := groupEnabled_disablePin s g
    have e1 : (s.disablePin g b).groups = s.groups := by rw [disablePin_frame]
    exact ⟨group_congr e1 h, byte_ext fun k => by simp [ma, hne], by simp [ge, hne]⟩

/-- A registration command clears no request (60_exceptions.md R213). -/
theorem registered_pending {s t : State} {g h : GroupIx} {b : BitIx} (e : s.Registered t g b) (hp : s.pending h = true) :
    t.pending h = true := by
  rcases e with ⟨fn, mode, hf, rfl⟩ | rfl | ⟨c, hs, rfl⟩ | rfl
  · obtain ⟨_, _, _, _, _, _, _, pe, _⟩ := attachAt_reads hf mode g b
    rw [pe]
    split
    · rename_i hg
      rw [hg, hp, Bool.true_or]
    · exact hp
  · rw [pending_congr (s := s) (by rw [(detachAt_reads s g b).2.2.2.2.2.2])]
    exact hp
  · obtain ⟨_, _, _, _, _, _, _, pe, _⟩ := enableAt_reads hs
    rw [pe]
    split
    · rename_i hg
      rw [hg, hp, Bool.true_or]
    · exact hp
  · rw [pending_congr (s := s) (by rw [disablePin_frame])]
    exact hp

/-- Disabling a pin neither reads nor writes GIE or CSSTACK. -/
theorem disablePin_section (s : State) (g : GroupIx) (b : BitIx) (x : Bool) (c : List Bool) :
    State.disablePin { s with gie := x, csStack := c } g b = { s.disablePin g b with gie := x, csStack := c } := by
  by_cases h : (s.putMaskBit g b false).regRead (.mask g) = 0x00#8
  · have h' : (State.putMaskBit { s with gie := x, csStack := c } g b false).regRead (.mask g) = 0x00#8 := h
    simp only [State.disablePin, if_pos h, if_pos h']
    rfl
  · have h' : ¬(State.putMaskBit { s with gie := x, csStack := c } g b false).regRead (.mask g) = 0x00#8 := h
    simp only [State.disablePin, if_neg h, if_neg h']
    rfl

/-! ### Runs -/

theorem runSteps_next {s t : State} (n : Nat) (h : step s = .next t) : runSteps (n + 1) s = runSteps n t := by
  simp only [runSteps, h]

/-- Running two lists of commands one after the other. -/
theorem runCommands_append (a b : List Instr) : ∀ s t : State, State.runCommands a s = .next t →
    State.runCommands (a ++ b) s = State.runCommands b t := by
  induction a with
  | nil => intro s t h; cases h; rfl
  | cons i a ih =>
    intro s t h
    obtain ⟨u, hu⟩ := exec_next i s
    simp only [List.cons_append, State.runCommands, hu] at h ⊢
    exact ih u t h

end Sys2Proof.Machine
end

