-- ==== Sys2Proof/Laws/PerInstr.lean ====
section
/-! SUPPORT. Statements for all instructions, made per instruction: the word of an instruction is well-formed for the
instruction's own row of the opcode table (30_encoding.md R77). -/

namespace Sys2Proof.Laws.RowMatches

/-- The instruction's word is well-formed for its row (30_encoding.md R77). -/
def Statement (i : Instr) : Prop := i.row.admits (encode i) = true

theorem attach (pin : PinId) (mode : ModeField) : Statement (.attach pin mode) := by
  unfold Statement
  revert pin
  cases mode <;> decide

theorem detach (pin : PinId) : Statement (.detach pin) := by
  unfold Statement
  revert pin
  decide

theorem enable (pin : PinId) : Statement (.enable pin) := by
  unfold Statement
  revert pin
  decide

theorem disable (pin : PinId) : Statement (.disable pin) := by
  unfold Statement
  revert pin
  decide

theorem csenter : Statement .csenter := rfl

theorem csexit : Statement .csexit := rfl

theorem setgie (e : Bool) : Statement (.setgie e) := by cases e <;> rfl

theorem pinwrite (g : GroupIx) (v : Byte) : Statement (.pinwrite g v) := by
  unfold Statement
  revert g v
  decide

theorem cbret : Statement .cbret := rfl

end Sys2Proof.Laws.RowMatches
end

