-- ==== Sys2Proof/Laws/Words.lean ====
section
/-! SUPPORT. The fields of a command word and the bits that must be zero (30_encoding.md R71, R81). -/

namespace Sys2Proof

/-- A command word is its fields in a row: OP, MODE, GRP, PIN, RSV, VAL (30_encoding.md R71). -/
theorem word_of_fields (w : CmdWord) :
    w = opField w ++ modeField w ++ grpField w ++ pinField w ++ w.extractLsb' 8 8 ++ valField w := by
  apply BitVec.eq_of_getLsbD_eq
  intro i hi
  simp only [opField, modeField, grpField, pinField, valField, BitVec.getLsbD_append, BitVec.getLsbD_extractLsb']
  interval_cases i <;> simp

/-- A run of bits under the must-be-zero mask is zero when the test of 30_encoding.md R81 passes. -/
theorem extract_of_zeros {w zeros : CmdWord} (h : w &&& zeros = 0#32) (lo n : Nat)
    (hz : ∀ i, i < n → zeros.getLsbD (lo + i) = true) : w.extractLsb' lo n = 0#n := by
  apply BitVec.eq_of_getLsbD_eq
  intro i hi
  have e := congrArg (fun x => x.getLsbD (lo + i)) h
  simp [hz i hi] at e
  simp [BitVec.getLsbD_extractLsb', e]

/-- The test of 30_encoding.md R81 passes, and the instruction is the one at hand. -/
theorem checkZeros_eq_command {w zeros : CmdWord} {i j : Instr} :
    checkZeros w zeros i = .command j ↔ w &&& zeros = 0#32 ∧ i = j := by
  unfold checkZeros
  split <;> simp_all

end Sys2Proof
end

