-- ==== Sys2Proof/Tests/Slice0.lean ====
section
/-! SUPPORT. Tests. Expected results are those of 95_test_vectors.md (the vector is named at each test) or are worked by
hand from the rule named. The theorems called `witness_...` show states and operands that meet the hypotheses of the
obligation they name, clause by clause. -/

namespace Sys2Proof.Tests

open Sys2Proof.Machine

/-! ### Configuration EX (95_test_vectors.md section 0) and small states -/

/-- EX: two groups, pin `p` below 16 at group `p / 8`, bit `p % 8`. -/
def ex : Platform :=
  { lastGroup := 1
    pins := (List.finRange 16).map fun p =>
      { pin := BitVec.ofNat 8 p.val, group := if p.val < 8 then 0 else 1, bit := ⟨p.val % 8, Nat.mod_lt _ (by decide)⟩ }
    addrGrpen := #v[0x68, 0x68, 0, 0]
    addrMask := #v[0x6B, 0x6C, 0, 0] }

/-- Reset under EX with every pin low, and a callback operand on the port. -/
def start : State := { State.powerOn ex #v[0, 0, 0, 0] with portFn := some ⟨1⟩, portArg := ⟨1⟩ }

/-- The callback of token `n`. -/
def cb (n : Nat) : Callback := { fn := ⟨n⟩, arg := ⟨n⟩ }

/-- A group with the callback 1 in the slot of bit 3 and the edge masks of the mode CHANGE. -/
def group3 : GroupState := { GroupState.reset with slot := GroupState.reset.slot.set 3 (some (cb 1)), rise := 0x08, fall := 0x08 }

/-- Pin 3 attached with CHANGE, enabled, all pins low (40_registration.md R109 with LIVE[0] = 0). -/
def attached : State := { start with groups := start.groups.set 0 group3, mask := #v[0x08, 0, 0, 0], grpen := 0x01 }

/-- Pin 3 attached with CHANGE and disabled. -/
def disabled : State := { attached with mask := #v[0, 0, 0, 0], grpen := 0x00 }

/-- `attached`, GIE set, pin 3 gone high and its request latched: TAKE 0 is enabled. -/
def requested : State := { attached with gie := true, live := #v[0x08, 0, 0, 0], pend := #v[true, false, false, false] }

/-- The interrupt of group 0 is taken. -/
def entered : State := { requested with gie := false, pend := #v[false, false, false, false], seq := .entered 0 true 0 }

/-- The loop stands at bit `i`, with bit 3 triggered high. -/
def looping (i : Fin 9) : State := { entered with seq := .invoke 0 true 0 0x08 0x08 i }

/-- The callback of bit `i` runs and issues the commands. -/
def calling (i : BitIx) : State := { entered with seq := .inCallback 0 true 0 0x08 0x08 i, issuer := .callback }

/-- Bit 3 of group 0 is the only one with a callback, at bits 0 and 7 too (for the ends of the loop). -/
def groupEnds : GroupState :=
  { group3 with slot := (group3.slot.set 0 (some (cb 2))).set 7 (some (cb 3)), rise := 0x89, fall := 0x89 }

/-- The command of a word, with a callback operand. -/
def cmd (w : CmdWord) : Command := { word := w, fn := some ⟨1⟩, arg := ⟨1⟩ }

/-- The outcome is a next state in which `p` holds. -/
def nextIs (o : Host.Outcome State Fault Refusal) (p : State → Bool) : Bool :=
  match o with
  | .next t => p t
  | .fault _ => false
  | .refused _ => false

/-! ### WellFormed: a well-formed term, and an ill-formed one for each check -/

theorem test_ex_wellFormed : ex.wellFormed = true := by decide

theorem test_group_one_wellFormed : (Instr.pinwrite 1 0xFF).wellFormed ex = true := by decide

/-- EX has two groups (30_encoding.md R82). -/
theorem test_absent_group_refused : (Instr.pinwrite 2 0x00).wellFormed ex = false := by decide

theorem test_pin_listed_twice_refused :
    Platform.locatorOk { ex with pins := { pin := 3, group := 1, bit := 0 } :: ex.pins } = false := by decide

theorem test_pin_in_absent_group_refused :
    Platform.locatorOk { ex with pins := [{ pin := 20, group := 2, bit := 0 }] } = false := by decide

/-- 20_memory.md R51: the MASK addresses differ. -/
theorem test_equal_mask_addresses_refused : Platform.addressesOk { ex with addrMask := #v[0x6B, 0x6B, 0, 0] } = false := by
  decide

/-- 20_memory.md R51: no MASK address is a GRPEN address. -/
theorem test_mask_at_grpen_refused : Platform.addressesOk { ex with addrMask := #v[0x6B, 0x68, 0, 0] } = false := by decide

/-! ### Decoding: 95_test_vectors.md section 5 -/

theorem test_decode_attach :
    decode 0x1C070000 = .command (.attach 7 .rising) ∧ decode 0x14030000 = .command (.attach 3 .change) ∧
    decode 0x18090000 = .command (.attach 9 .falling) ∧ decode 0x10030000 = .command (.attach 3 .mode0) := by decide

theorem test_decode_detach : decode 0x20030000 = .command (.detach 3) := by decide

theorem test_decode_enable : decode 0x30030000 = .command (.enable 3) := by decide

theorem test_decode_disable : decode 0x40030000 = .command (.disable 3) := by decide

theorem test_decode_csenter : decode 0x50000000 = .command .csenter := by decide

theorem test_decode_csexit : decode 0x60000000 = .command .csexit := by decide

theorem test_decode_setgie :
    decode 0x70000001 = .command (.setgie true) ∧ decode 0x70000000 = .command (.setgie false) := by decide

theorem test_decode_pinwrite :
    decode 0x80000008 = .command (.pinwrite 0 0x08) ∧ decode 0x810000FF = .command (.pinwrite 1 0xFF) ∧
    decode 0x83000000 = .command (.pinwrite 3 0x00) := by decide

theorem test_decode_cbret : decode 0x90000000 = .command .cbret := by decide

theorem test_decode_reserved_opcodes :
    decode 0x00000000 = .reserved .rsvOpcode ∧ decode 0xA0000000 = .reserved .rsvOpcode ∧
    decode 0xF0000000 = .reserved .rsvOpcode := by decide

theorem test_decode_reserved_bits :
    decode 0x20030001 = .reserved .rsvBits ∧ decode 0x11030000 = .reserved .rsvBits ∧
    decode 0x14038000 = .reserved .rsvBits ∧ decode 0x34030000 = .reserved .rsvBits ∧
    decode 0x70000002 = .reserved .rsvBits ∧ decode 0x84000000 = .reserved .rsvBits ∧
    decode 0x50010000 = .reserved .rsvBits := by decide

/-- 20_memory.md R53: the byte of bits 7:0 comes first. -/
theorem test_decode_bytes : decodeBytes [0xFF, 0x00, 0x00, 0x81, 0x55] = .word (.command (.pinwrite 1 0xFF)) [0x55] := by
  decide

theorem test_decode_too_short : decodeBytes [0x00, 0x00, 0x03] = .tooShort := by decide

/-! ### Registration -/

/-- V-REG-3: `attach 9, F2, A2, falling` writes group 1. -/
theorem test_attach_falling :
    nextIs (exec (.attach 9 .falling) { start with portFn := some ⟨2⟩, portArg := ⟨2⟩ }) (fun t =>
      t.slotAt 1 1 == some (cb 2) && (t.group 1).rise == 0x00 && (t.group 1).fall == 0x02 && t.mask.get 1 == 0x02 &&
        t.grpen == 0x02 && t.group 0 == start.group 0 && t.mask.get 0 == 0x00) = true := by decide

/-- V-REG-6: only the attached pin's own bit of `state` is re-sampled. -/
theorem test_attach_resamples_its_bit_alone :
    nextIs (exec (.attach 1 .change) { attached with live := #v[0x0A, 0, 0, 0] }) (fun t =>
      (t.group 0).state == 0x02 && (t.group 0).rise == 0x0A && t.mask.get 0 == 0x0A) = true := by decide

/-- V-REG-12: the last pin of the group, so the group's enable bit goes too; the other group's stays. -/
theorem test_detach_last_pin :
    nextIs (exec (.detach 3) { attached with mask := #v[0x08, 0x02, 0, 0], grpen := 0x03 }) (fun t =>
      t.slotAt 0 3 == none && (t.group 0).rise == 0x00 && (t.group 0).fall == 0x00 && t.mask.get 0 == 0x00 &&
        t.grpen == 0x02) = true := by decide

/-- V-REG-11: another pin is left, so the group's enable bit stays. -/
theorem test_detach_one_of_two :
    nextIs (exec (.detach 3) { attached with mask := #v[0x18, 0, 0, 0] }) (fun t =>
      t.mask.get 0 == 0x10 && t.grpen == 0x01) = true := by decide

/-- L1-5: `enable 3` after `disable 3`, with pin 3 high. -/
theorem test_enable_resamples :
    nextIs (exec (.enable 3) { disabled with live := #v[0x0C, 0, 0, 0] }) (fun t =>
      t.mask.get 0 == 0x08 && t.grpen == 0x01 && (t.group 0).state == 0x08 && (t.group 0).rise == 0x08) = true := by decide

/-- V-REG-10: an empty slot. -/
theorem test_enable_empty_slot : nextIs (exec (.enable 3) start) (fun t => t == start) = true := by decide

/-- L1-5: slot and edge masks stay. -/
theorem test_disable_last_pin : nextIs (exec (.disable 3) attached) (fun t => t == disabled) = true := by decide

/-- V-REG-13: another pin is enabled. -/
theorem test_disable_one_of_two :
    nextIs (exec (.disable 3) { attached with mask := #v[0x18, 0, 0, 0] }) (fun t =>
      t.mask.get 0 == 0x10 && t.grpen == 0x01) = true := by decide

/-! ### The critical section -/

/-- V-CS-2: a nested section saves the 0. -/
theorem test_csenter_nested :
    nextIs (exec .csenter { start with csStack := [true] }) (fun t => t.csStack == [false, true] && !t.gie) = true := by decide

/-- V-CS-3: the inner CSEXIT does not unmask. -/
theorem test_csexit_inner :
    nextIs (exec .csexit { start with csStack := [false, true] }) (fun t => t.csStack == [true] && !t.gie) = true := by decide

/-- V-CS-5. -/
theorem test_csexit_underflow :
    nextIs (exec .csexit start) (fun t => t.fault == some (.csUnderflow .mainline)) = true := by decide

/-- V-CS-6. -/
theorem test_setgie : nextIs (exec (.setgie true) start) (fun t => t.gie && t.refused == none) = true := by decide

/-- V-CS-8. -/
theorem test_setgie_in_callback :
    nextIs (exec (.setgie true) (calling 3)) (fun t => !t.gie && t.refused == some .wrongAgent) = true := by decide

/-! ### The pin environment and the dispatch -/

/-- V-PW-1. -/
theorem test_pinwrite_request :
    nextIs (exec (.pinwrite 0 0x08) { attached with issuer := .pinEnvironment }) (fun t =>
      t.live.get 0 == 0x08 && t.pending 0 && !t.pending 1) = true := by decide

/-- V-PW-2: the pin that changes is masked. -/
theorem test_pinwrite_masked :
    nextIs (exec (.pinwrite 0 0x04) { attached with issuer := .pinEnvironment }) (fun t =>
      t.live.get 0 == 0x04 && !t.pending 0) = true := by decide

/-- V-DSP-7. -/
theorem test_cbret_unbalanced :
    nextIs (exec .cbret { calling 3 with csStack := [false] }) (fun t => t.fault == some (.csUnbalanced 0)) = true := by decide

/-- The loop goes on at the next bit (42_dispatch.md R168); after bit 7 it stands at 8. -/
theorem test_cbret_last_bit : nextIs (exec .cbret (calling 7)) (fun t => t.seq == .invoke 0 true 0 0x08 0x08 8) = true := by
  decide

/-- V-DSP-2. -/
theorem test_sample_multi_bit :
    (State.sample { start with
      groups := start.groups.set 0 { GroupState.reset with state := 0xA5, rise := 0xF0, fall := 0x0F }
      live := #v[0x63, 0, 0, 0] } 0 true 0).seq = .invoke 0 true 0 0x44 0x63 0 := by decide

/-- L1-3: TAKE saves GIE and the depth and clears the request. -/
theorem test_take :
    nextIs (step { requested with turns := [.sequencer 0] }) (fun t =>
      t.seq == .entered 0 true 0 && !t.gie && !t.pending 0) = true := by decide

/-- L1-3: INVOKE emits the Call with the sampled level, though the pin is low again (V-DSP-4). -/
theorem test_invoke_sampled_level :
    nextIs (step { looping 3 with turns := [.sequencer 0], live := #v[0, 0, 0, 0] }) (fun t =>
      t.trace == [{ g := 0, b := 3, fn := ⟨1⟩, arg := ⟨1⟩, level := true }]) = true := by decide

/-- Program P4: a triggered bit whose slot a callback emptied is skipped. -/
theorem test_skip_emptied_slot :
    nextIs (step { looping 5 with turns := [.sequencer 0], seq := .invoke 0 true 0 0x24 0x24 5 }) (fun t =>
      t.trace == [] && t.seq == .invoke 0 true 0 0x24 0x24 6) = true := by decide

/-- 60_exceptions.md R210. -/
theorem test_reti :
    nextIs (step { looping 8 with turns := [.sequencer 0] }) (fun t => t.seq == .idle && t.gie) = true := by decide

/-! ### Steps and the placing of a command -/

theorem test_step_issues_placed_attach :
    nextIs (step (start.withFetchWord 32 0x14030000)) (fun t => t.slotAt 0 3 == some { fn := ⟨0⟩, arg := ⟨0⟩ }) = true := by
  decide

theorem test_step_issues_placed_cbret :
    nextIs (step (start.withFetchWord 32 0x90000000)) (fun t => t.seq == .invoke 0 true 0 0 0 1 && t.refused == none) = true := by
  decide

/-- A reserved word is refused, and the block then has no step (10_state.md R36). -/
theorem test_reserved_word_refused :
    nextIs (step (start.withFetchWord 32 0x20030001)) (fun t =>
      t.refused == some .reservedEncoding &&
        match step t with
        | .next _ => false
        | .fault _ => false
        | .refused r => r == .stopped .reservedEncoding) = true := by decide

/-! ### Witnesses: encoding -/

theorem witness_EncodeOfDecode : decode 0x14FF0000 = .command (.attach 0xFF .change) := by decide

theorem witness_DecodeFollowsTheOpcodeTable : decode 0x83000000 = .command (.pinwrite 3 0x00) := by decide

theorem witness_OpcodeRowsDoNotOverlap :
    (opcodeTable[0]? = some ⟨0xF300FFFF, 0x10000000⟩ ∧ OpcodeRow.admits ⟨0xF300FFFF, 0x10000000⟩ 0x1CFF0000 = true) ∧
    (opcodeTable[8]? = some ⟨0xFFFFFFFF, 0x90000000⟩ ∧ OpcodeRow.admits ⟨0xFFFFFFFF, 0x90000000⟩ 0x90000000 = true) := by
  decide

theorem witness_ReservedOpcodesAreRefused :
    (opField (cmd 0x0FFFFFFF).word).toNat = 0 ∧ 0xA ≤ (opField (cmd 0xA0000000).word).toNat ∧
    0xA ≤ (opField (cmd 0xFFFFFFFF).word).toNat := by decide

theorem witness_NonZeroReservedBitsAreRefused :
    (Instr.detach 0).row ∈ opcodeTable ∧ opField (cmd 0x20030001).word = opField (Instr.detach 0).row.pattern ∧
    (Instr.detach 0).row.admits (cmd 0x20030001).word = false := by decide

/-! ### Witnesses: steps -/

theorem start_running : start.running := ⟨rfl, rfl⟩

theorem witness_StepExecutesTheIssuedInstruction :
    (decode (cmd 0x14030000).word = .command (.attach 3 .change) ∧
      ({ start with turns := [.mainline], mainlineCmds := [cmd 0x14030000] } : State).running ∧ start.seq = .idle) ∧
    (({ calling 0 with turns := [.callback], callbackCmds := [cmd 0x14030000] } : State).running ∧
      (calling 0).callbackRuns = true) ∧
    (decode (cmd 0x80000008).word = .command (.pinwrite 0 0x08) ∧
      ({ start with turns := [.pinEnvironment], pinCmds := [cmd 0x80000008] } : State).running) :=
  ⟨⟨by decide, ⟨rfl, rfl⟩, rfl⟩, ⟨⟨rfl, rfl⟩, rfl⟩, by decide, ⟨rfl, rfl⟩⟩

theorem witness_StoppedBlockHasNoStep :
    ({ start with fault := some (.csUnderflow .mainline) } : State).fault ≠ none ∧
    ({ start with refused := some .wrongAgent } : State).refused ≠ none := by decide

theorem witness_RunningBlockAlwaysSteps :
    start.running ∧ ({ start with turns := [.mainline], mainlineCmds := [cmd 0] } : State).running :=
  ⟨⟨rfl, rfl⟩, ⟨rfl, rfl⟩⟩

theorem witness_DispatchKeepsTheMainlinesCommands :
    ∃ t, step { entered with turns := [.mainline], mainlineCmds := [cmd 0x50000000] } = .next t ∧ entered.seq ≠ .idle :=
  ⟨_, rfl, by decide⟩

/-! ### Witnesses: registration -/

theorem start_byProgram : start.byProgram := .inl rfl

theorem attached_byProgram : attached.byProgram := .inl rfl

theorem disabled_byProgram : disabled.byProgram := .inl rfl

theorem calling_byProgram : (calling 3).byProgram := .inr rfl

theorem start_registrationInv : start.RegistrationInv := ⟨by decide, by decide, by decide, by decide⟩

theorem attached_registrationInv : attached.RegistrationInv := ⟨by decide, by decide, by decide, by decide⟩

theorem disabled_registrationInv : disabled.RegistrationInv := ⟨by decide, by decide, by decide, by decide⟩

/-- Pin 16 is the first unresolved one of EX, and pins 0 and 15 are the ends of its locator. -/
theorem witness_AttachSemantics :
    start.byProgram ∧ (calling 3).byProgram ∧ start.locate 16 = none ∧ start.locate 255 = none ∧
    ({ start with portFn := none } : State).portFn = none ∧
    start.locate 0 = some (0, 0) ∧ start.locate 15 = some (1, 7) ∧ start.portFn = some ⟨1⟩ :=
  ⟨start_byProgram, calling_byProgram, by decide, by decide, rfl, by decide, by decide, rfl⟩

theorem witness_DetachSemantics :
    attached.byProgram ∧ attached.locate 16 = none ∧ attached.locate 3 = some (0, 3) ∧ attached.locate 15 = some (1, 7) :=
  ⟨attached_byProgram, by decide, by decide, by decide⟩

theorem witness_EnableSemantics :
    disabled.byProgram ∧ disabled.locate 16 = none ∧
    (disabled.locate 15 = some (1, 7) ∧ disabled.slotAt 1 7 = none) ∧
    (disabled.locate 3 = some (0, 3) ∧ disabled.slotAt 0 3 = some (cb 1)) :=
  ⟨disabled_byProgram, by decide, by decide, by decide⟩

theorem witness_DisableSemantics :
    attached.byProgram ∧ attached.locate 16 = none ∧ attached.locate 0 = some (0, 0) ∧ attached.locate 3 = some (0, 3) :=
  ⟨attached_byProgram, by decide, by decide, by decide⟩

theorem witness_WrongIssuersAreRefused :
    ({ start with issuer := .sequencer } : State).issuer = .sequencer ∧ start.issuer = .mainline ∧
    (calling 3).issuer = .callback ∧
    (({ start with issuer := .pinEnvironment } : State).issuer = .pinEnvironment ∧ ∀ g v, Instr.csenter ≠ .pinwrite g v) ∧
    start.cfg.nGroups ≤ (2 : GroupIx).val ∧ start.cfg.nGroups ≤ (3 : GroupIx).val :=
  ⟨rfl, rfl, rfl, ⟨rfl, fun _ _ h => nomatch h⟩, by decide, by decide⟩

theorem witness_DetachOfAnEmptySlotChangesNothing :
    start.byProgram ∧ start.RegistrationInv ∧ start.locate 3 = some (0, 3) ∧ start.slotAt 0 3 = none :=
  ⟨start_byProgram, start_registrationInv, by decide, by decide⟩

theorem witness_DetachTwiceIsDetachOnce :
    attached.byProgram ∧ attached.RegistrationInv ∧ ∃ t, exec (.detach 3) attached = .next t :=
  ⟨attached_byProgram, attached_registrationInv, _, rfl⟩

theorem witness_DisableOfADisabledPinChangesNothing :
    disabled.byProgram ∧ disabled.RegistrationInv ∧ (disabled.locate 0 = some (0, 0) ∧ disabled.slotAt 0 0 = none) ∧
    (disabled.locate 3 = some (0, 3) ∧ bitAt (disabled.regRead (.mask 0)) 3 = false) :=
  ⟨disabled_byProgram, disabled_registrationInv, by decide, by decide⟩

theorem witness_DisableThenEnableResumes :
    attached.byProgram ∧ attached.RegistrationInv ∧ attached.locate 3 = some (0, 3) ∧ attached.slotAt 0 3 = some (cb 1) :=
  ⟨attached_byProgram, attached_registrationInv, by decide, by decide⟩

theorem witness_RegistrationIsItsOwnCriticalSection :
    (attached.byProgram ∧ attached.gieClearInDispatch) ∧ ((calling 3).byProgram ∧ (calling 3).gieClearInDispatch) ∧
    pinOperand (.attach 3 .change) = some 3 ∧ pinOperand (.detach 3) = some 3 ∧ pinOperand (.enable 3) = some 3 ∧
    pinOperand (.disable 3) = some 3 :=
  ⟨⟨attached_byProgram, fun _ => rfl⟩, ⟨calling_byProgram, fun _ => rfl⟩, rfl, rfl, rfl, rfl⟩

/-! ### Witnesses: the critical section -/

theorem witness_CsenterSavesAndMasks : start.byProgram ∧ (calling 3).byProgram := ⟨start_byProgram, calling_byProgram⟩

theorem witness_CsexitRestoresOrUnderflows :
    (({ start with csStack := [true] } : State).byProgram ∧ start.seq = .idle ∧
      ({ start with csStack := [true] } : State).csStack = true :: []) ∧
    (({ calling 3 with csStack := [false] } : State).byProgram ∧
      ({ calling 3 with csStack := [false] } : State).csStack = false :: []) ∧
    (start.byProgram ∧ start.csStack = []) := ⟨⟨.inl rfl, rfl, rfl⟩, ⟨.inr rfl, rfl⟩, start_byProgram, rfl⟩

theorem witness_CsexitInADispatchKeepsGieClear :
    ({ calling 3 with csStack := [true] } : State).byProgram ∧ (calling 3).seq ≠ .idle ∧
    ({ calling 3 with csStack := [true] } : State).csStack = true :: [] := ⟨.inr rfl, by decide, rfl⟩

theorem witness_SetgieSemantics :
    (start.issuer = .mainline ∧ start.seq = .idle) ∧ ((calling 3).byProgram ∧ (calling 3).seq ≠ .idle) ∧
    (entered.byProgram ∧ entered.seq ≠ .idle) := ⟨⟨rfl, rfl⟩, ⟨.inr rfl, by decide⟩, .inl rfl, by decide⟩

theorem witness_BalancedSectionsRestore :
    start.byProgram ∧ start.gieClearInDispatch ∧ Balanced [.attach 3 .change, .csenter, .detach 3, .csexit] :=
  ⟨start_byProgram, fun _ => rfl, .registration rfl (.nested (.registration (i := .detach 3) rfl .nil) .nil)⟩

/-! ### Witnesses: PINWRITE and the dispatch -/

/-- Group 1 is the last one of EX, and group 2 the first that EX lacks. -/
theorem witness_PinwriteSemantics :
    ({ attached with issuer := .pinEnvironment } : State).issuer = .pinEnvironment ∧
    (1 : GroupIx).val < attached.cfg.nGroups ∧ attached.cfg.nGroups ≤ (2 : GroupIx).val := ⟨rfl, by decide, by decide⟩

theorem witness_CbretSemantics :
    ((calling 0).issuer = .callback ∧ (calling 0).seq = .inCallback 0 true 0 0x08 0x08 0 ∧ (calling 0).csStack.length = 0) ∧
    ((calling 7).seq = .inCallback 0 true 0 0x08 0x08 7 ∧ ({ calling 7 with csStack := [false] } : State).csStack.length ≠ 0) :=
  ⟨⟨rfl, rfl, rfl⟩, rfl, by decide⟩

theorem witness_TakeEntersTheDispatch :
    (({ requested with turns := [.sequencer 0] } : State).running ∧ requested.seq = .idle ∧ requested.gie = true ∧
      requested.groupEnabled 0 = true ∧ requested.pending 0 = true) ∧
    (({ requested with turns := [.sequencer 1] } : State).running ∧
      ¬(requested.gie = true ∧ requested.groupEnabled 1 = true ∧ requested.pending 1 = true)) :=
  ⟨⟨⟨rfl, rfl⟩, rfl, rfl, by decide, by decide⟩, ⟨rfl, rfl⟩, by decide⟩

theorem witness_DispatchStartsOnlyByTake :
    ∃ t, step { requested with turns := [.sequencer 0] } = .next t ∧ requested.seq = .idle ∧ t.seq ≠ .idle :=
  ⟨_, rfl, rfl, by decide⟩

theorem witness_MaskedSectionExcludesDispatch :
    ∃ t, step { requested with turns := [.sequencer 0], gie := false } = .next t ∧ requested.seq = .idle := ⟨_, rfl, rfl⟩

theorem witness_SampleComputesTheTriggerSet :
    ({ entered with turns := [.sequencer 0] } : State).running ∧ entered.seq = .entered 0 true 0 := ⟨⟨rfl, rfl⟩, rfl⟩

/-- The ends of the loop and both ways to skip a bit: 0 and 7 invoked, 0 not triggered, 7 triggered with an empty slot. -/
theorem witness_LoopInvokesOrSkips :
    ({ looping 0 with turns := [.sequencer 0] } : State).running ∧
    ((looping 0).seq = .invoke 0 true 0 0x08 0x08 (0 : BitIx).castSucc ∧ bitAt (0x08 : Byte) 0 = false) ∧
    (bitAt (0x80 : Byte) 7 = true ∧ (looping 7).slotAt 0 7 = none) ∧
    (bitAt (0x81 : Byte) 0 = true ∧ ({ looping 0 with groups := start.groups.set 0 groupEnds } : State).slotAt 0 0 = some (cb 2)) ∧
    (bitAt (0x81 : Byte) 7 = true ∧ ({ looping 7 with groups := start.groups.set 0 groupEnds } : State).slotAt 0 7 = some (cb 3)) :=
  ⟨⟨rfl, rfl⟩, by decide, by decide, by decide, by decide⟩

theorem witness_ReturnRestoresGie :
    ({ looping 8 with turns := [.sequencer 0] } : State).running ∧ (looping 8).seq = .invoke 0 true 0 0x08 0x08 8 ∧
    (looping 8).csStack.length = 0 ∧ ({ looping 8 with csStack := [true] } : State).csStack.length ≠ 0 :=
  ⟨⟨rfl, rfl⟩, rfl, rfl, by decide⟩

theorem witness_SequencerActsWhenNoTurnIsLeft :
    (requested.running ∧ requested.turns = [] ∧ requested.seq = .idle ∧ requested.takeEnabled 0 = true) ∧
    (start.running ∧ start.turns = [] ∧ start.seq = .idle ∧ ∀ g, start.takeEnabled g = false) ∧
    (entered.running ∧ entered.turns = [] ∧ entered.seq ≠ .idle ∧ entered.callbackRuns = false) ∧
    ((calling 3).running ∧ (calling 3).turns = [] ∧ (calling 3).callbackRuns = true) :=
  ⟨⟨⟨rfl, rfl⟩, rfl, rfl, by decide⟩, ⟨⟨rfl, rfl⟩, rfl, rfl, by decide⟩, ⟨⟨rfl, rfl⟩, rfl, by decide, rfl⟩, ⟨rfl, rfl⟩, rfl, rfl⟩

/-- The state of `witness_LoopDeliversTheDueCalls`. -/
def loopState : State := { looping 0 with turns := loopTurns ++ [.mainline], callbackCmds := List.replicate 8 cbretCommand }

theorem witness_LoopDeliversTheDueCalls :
    loopState.running ∧ loopState.seq = .invoke 0 true loopState.csStack.length 0x08 0x08 0 ∧
    loopState.turns = loopTurns ++ [.mainline] ∧ loopState.callbackCmds = List.replicate 8 cbretCommand ∧
    loopState.dueCalls 0 0x08 0x08 = [{ g := 0, b := 3, fn := ⟨1⟩, arg := ⟨1⟩, level := true }] :=
  ⟨⟨rfl, rfl⟩, rfl, rfl, rfl, by decide⟩

/-- The state of `witness_DispatchDeliversTheQualifyingEdges`. -/
def dispatchState : State :=
  { requested with
    turns := .sequencer 0 :: .sequencer 3 :: (loopTurns ++ []), callbackCmds := List.replicate 8 cbretCommand }

theorem witness_DispatchDeliversTheQualifyingEdges :
    dispatchState.takeEnabled 0 = true ∧ dispatchState.turns = .sequencer 0 :: .sequencer 3 :: (loopTurns ++ []) ∧
    dispatchState.callbackCmds = List.replicate 8 cbretCommand := ⟨by decide, rfl, rfl⟩

theorem witness_AttachedModeDecidesTheTrigger :
    start.byProgram ∧ start.locate 0 = some (0, 0) ∧ start.portFn ≠ none ∧
    ∃ t, exec (.attach 0 .mode0) start = .next t := ⟨start_byProgram, by decide, by decide, _, rfl⟩

theorem witness_NoFalseFirstEdge :
    start.byProgram ∧ start.locate 15 = some (1, 7) ∧ start.portFn ≠ none ∧
    ∃ t, exec (.attach 15 .rising) { start with live := #v[0, 0x80, 0, 0] } = .next t :=
  ⟨start_byProgram, by decide, by decide, _, rfl⟩

theorem witness_EmptySlotNeverTriggers : attached.RegistrationInv ∧ attached.slotAt 0 7 = none :=
  ⟨attached_registrationInv, by decide⟩

theorem witness_UnchangedPinIsNotDisturbed :
    ({ entered with turns := [.sequencer 0] } : State).running ∧ entered.seq = .entered 0 true 0 ∧
    bitAt (entered.group 0).state 7 = bitAt (entered.regRead (.live 0)) 7 ∧
    ∃ t, step { entered with turns := [.sequencer 0] } = .next t := ⟨⟨rfl, rfl⟩, rfl, by decide, _, rfl⟩

/-! ### Witnesses: what no step can do -/

theorem witness_EveryStepKeepsTheRegistrationInvariant :
    ({ attached with turns := [.mainline], mainlineCmds := [cmd 0x20030000] } : State).RegistrationInv ∧
    ∃ t, step { attached with turns := [.mainline], mainlineCmds := [cmd 0x20030000] } = .next t ∧ t.slotAt 0 3 = none :=
  ⟨⟨by decide, by decide, by decide, by decide⟩, _, rfl, by decide⟩

theorem witness_TraceGrowsOnlyByInvoke :
    ∃ t, step { looping 3 with turns := [.sequencer 0] } = .next t ∧ t.trace ≠ (looping 3).trace := ⟨_, rfl, by decide⟩

theorem witness_RequestsAreClearedOnlyByTake :
    ∃ t, step { requested with turns := [.sequencer 0] } = .next t ∧ requested.pending 0 = true ∧ t.pending 0 = false :=
  ⟨_, rfl, by decide, by decide⟩

theorem witness_LiveIsWrittenOnlyByPinwrite :
    ∃ t, step { attached with turns := [.pinEnvironment], pinCmds := [cmd 0x80000008] } = .next t ∧ t.live ≠ attached.live :=
  ⟨_, rfl, by decide⟩

theorem witness_GroupStateChangesOnlyByItsOwnSteps :
    (∃ t, step { entered with turns := [.sequencer 0] } = .next t ∧ t.group 0 ≠ entered.group 0) ∧
    (∃ t, step { attached with turns := [.mainline], mainlineCmds := [cmd 0x20030000] } = .next t ∧
      t.group 0 ≠ attached.group 0) := ⟨⟨_, rfl, by decide⟩, _, rfl, by decide⟩

theorem witness_MaskAndEnableChangeOnlyByRegistration :
    ∃ t, step { attached with turns := [.mainline], mainlineCmds := [cmd 0x40030000] } = .next t ∧
      t.regRead (.mask 0) ≠ attached.regRead (.mask 0) ∧ t.groupEnabled 0 ≠ attached.groupEnabled 0 :=
  ⟨_, rfl, by decide, by decide⟩

theorem witness_ConfigurationNeverChanges : ∃ t, step start = .next t := ⟨_, rfl⟩

/-- A callback closes a section of the mainline that saved 1 (log 15). -/
theorem witness_EveryStepKeepsGieClearInADispatch :
    ({ calling 3 with turns := [.callback], callbackCmds := [cmd 0x60000000], csStack := [true] } : State).gieClearInDispatch ∧
    ∃ t, step { calling 3 with turns := [.callback], callbackCmds := [cmd 0x60000000], csStack := [true] } = .next t ∧
      t.seq ≠ .idle ∧ t.csStack = [] := ⟨fun _ => rfl, _, rfl, by decide, rfl⟩

theorem witness_GieInADispatchIsSetOnlyByReturn :
    ∃ t, step { looping 8 with turns := [.sequencer 0] } = .next t ∧ (looping 8).seq ≠ .idle ∧ (looping 8).gie = false ∧
      t.gie = true := ⟨_, rfl, by decide, rfl, rfl⟩

/-- A request of another group waits, and the callback of bit 7, or of bit 0, returns or does not. -/
theorem witness_DispatchWaitsForTheCallback :
    (∃ t, step { calling 7 with turns := [.sequencer 1], pend := #v[false, true, false, false] } = .next t ∧
      (calling 7).seq = .inCallback 0 true 0 0x08 0x08 7 ∧ (calling 7).gieClearInDispatch) ∧
    (∃ t, step { calling 0 with turns := [.callback], callbackCmds := [cbretCommand] } = .next t ∧
      (calling 0).seq = .inCallback 0 true 0 0x08 0x08 0 ∧ (calling 0).gieClearInDispatch ∧ t.seq ≠ (calling 0).seq) :=
  ⟨⟨_, rfl, rfl, fun _ => rfl⟩, _, rfl, rfl, fun _ => rfl, by decide⟩

/-! ### Witnesses: reset and the register map -/

theorem witness_NoTakeAfterReset : (∀ g, start.groupEnabled g = false) ∧ attached.gie = false := ⟨by decide, rfl⟩

theorem witness_GrpenReservedBits : start.cfg.nGroups ≤ (2 : BitIx).val ∧ start.cfg.nGroups ≤ (7 : BitIx).val := by decide

theorem witness_RegisterAddressesAreUnambiguous : ex.addressesOk = true ∧ ex.hasGroup 0 = true ∧ ex.hasGroup 1 = true := by
  decide

end Sys2Proof.Tests
end

section
/-! PROOFS, scope of the model (00_scope.md): a step executes the issued instruction (R18), the configuration is constant
(R9, R12), and the core never inspects callback references and arguments (R13). -/

namespace Sys2Proof.Machine

/-! ### Issuing a command that decodes (30_encoding.md R78) -/

theorem issue_command {c : Command} {i : Instr} (h : decode c.word = .command i) (s : State) (a : Agent) :
    s.issue a c = exec i (s.present a c) := by
  simp only [State.issue, h]

/-! ### The turns of the mainline and the callback (10_state.md R34; log 2) -/

theorem mainlineTurn_issues {s : State} {c : Command} {rest : List Command} (cmds : s.mainlineCmds = c :: rest)
    (idle : s.seq = .idle) : s.mainlineTurn = State.issue { s with mainlineCmds := rest } .mainline c := by
  simp [State.mainlineTurn, cmds, idle]

theorem mainlineTurn_waits {s : State} (busy : s.seq ≠ .idle) : s.mainlineTurn = .next s := by
  unfold State.mainlineTurn
  split <;> simp [busy]

theorem callbackTurn_issues {s : State} {c : Command} {rest : List Command} (cmds : s.callbackCmds = c :: rest)
    (runs : s.callbackRuns = true) : s.callbackTurn = State.issue { s with callbackCmds := rest } .callback c := by
  simp [State.callbackTurn, cmds, runs]

theorem callbackTurn_waits {s : State} (noCallback : s.callbackRuns = false) : s.callbackTurn = .next s := by
  unfold State.callbackTurn
  split <;> simp [noCallback]

/-- Settles O10: the step of each issuing agent's turn is `issue`, which runs the decoded instruction. -/
theorem stepExecutesTheIssuedInstruction : Obligations.StepExecutesTheIssuedInstruction := by
  intro s c rest ts i running decoded
  refine ⟨fun turn cmds idle => ?_, fun turn cmds runs => ?_, fun turn cmds => ?_⟩
  · rw [step_mainline running turn cmds idle, issue_command decoded]; rfl
  · rw [step_callback running turn cmds runs, issue_command decoded]; rfl
  · rw [step_pinEnvironment running turn cmds, issue_command decoded]; rfl

/-! ### No operation writes the configuration -/

theorem turnTaken_cfg (s : State) : s.turnTaken.cfg = s.cfg := rfl

theorem fetched_cfg (s : State) (a : Agent) (c : Command) : (s.fetched a c).cfg = s.cfg := by
  rw [fetched_frame]

theorem registered_cfg {s t : State} {g : GroupIx} {b : BitIx} (h : s.Registered t g b) : t.cfg = s.cfg := by
  rw [registered_frame h]

theorem exec_cfg {i : Instr} {s t : State} (h : exec i s = .next t) : t.cfg = s.cfg := by
  rcases exec_effects h with rfl | ⟨r, rfl⟩ | ⟨r, rfl⟩ | ⟨-, pin, g, b, -, -, registered⟩ | ⟨-, -, rfl⟩ |
    ⟨-, -, saved, rest, -, rfl⟩ | ⟨e, -, -, -, rfl⟩ | ⟨g, v, -, -, -, rfl⟩ | ⟨-, -, g, saved, d, trig, lvl, i, -, rfl⟩
  case inr.inr.inr.inl => exact registered_cfg registered
  all_goals rfl

theorem reti_cfg (s : State) (g : GroupIx) (saved : Bool) (d : Nat) : (s.reti g saved d).cfg = s.cfg := by
  unfold State.reti
  split <;> rfl

theorem sequencerStep_cfg {s u : State} {p : GroupIx} (h : s.sequencerStep p = some u) : u.cfg = s.cfg := by
  rcases sequencerStep_cases h with ⟨-, rfl⟩ | ⟨g, saved, d, -, rfl⟩ | ⟨g, saved, d, trig, lvl, i, c, -, -, -, rfl⟩ |
    ⟨g, saved, d, trig, lvl, i, -, -, rfl⟩ | ⟨g, saved, d, trig, lvl, -, rfl⟩
  case inr.inr.inr.inr => exact reti_cfg s g saved d
  all_goals rfl

/-- Settles O51: the turn alone passes, the sequencer moves, or a fetched command is executed or refused, and none of these
writes the configuration. -/
theorem configurationNeverChanges : Obligations.ConfigurationNeverChanges := by
  intro s t h
  obtain ⟨-, rfl | ⟨g, u, moved, rfl | rfl⟩ | ⟨a, c, -, ⟨i, -, executed⟩ | ⟨k, -, rfl⟩⟩⟩ := step_cases h
  · rfl
  · exact (sequencerStep_cfg moved).trans (turnTaken_cfg s)
  · exact (sequencerStep_cfg moved).trans (turnTaken_cfg s)
  · exact (exec_cfg executed).trans (fetched_cfg s a c)
  · exact fetched_cfg s a c

/-! ### Renaming the callback tokens: what is read (00_scope.md R13) -/

section
variable (f : FnRef → FnRef) (k : Arg → Arg) (s : State)

@[simp] theorem rename_cfg : (s.rename f k).cfg = s.cfg := rfl
@[simp] theorem rename_gie : (s.rename f k).gie = s.gie := rfl
@[simp] theorem rename_csStack : (s.rename f k).csStack = s.csStack := rfl
@[simp] theorem rename_seq : (s.rename f k).seq = s.seq := rfl
@[simp] theorem rename_fault : (s.rename f k).fault = s.fault := rfl
@[simp] theorem rename_refused : (s.rename f k).refused = s.refused := rfl
@[simp] theorem rename_issuer : (s.rename f k).issuer = s.issuer := rfl
@[simp] theorem rename_portFn : (s.rename f k).portFn = s.portFn.map f := rfl
@[simp] theorem rename_portArg : (s.rename f k).portArg = k s.portArg := rfl
@[simp] theorem rename_mainlineCmds : (s.rename f k).mainlineCmds = s.mainlineCmds.map (renameCommand f k) := rfl
@[simp] theorem rename_callbackCmds : (s.rename f k).callbackCmds = s.callbackCmds.map (renameCommand f k) := rfl
@[simp] theorem rename_pinCmds : (s.rename f k).pinCmds = s.pinCmds.map (renameCommand f k) := rfl
@[simp] theorem rename_turns : (s.rename f k).turns = s.turns := rfl
@[simp] theorem rename_picks : (s.rename f k).picks = s.picks := rfl

@[simp] theorem regRead_rename (r : Reg) : (s.rename f k).regRead r = s.regRead r := by cases r <;> rfl

@[simp] theorem locate_rename (pin : PinId) : (s.rename f k).locate pin = s.locate pin := rfl

@[simp] theorem takeEnabled_rename (g : GroupIx) : (s.rename f k).takeEnabled g = s.takeEnabled g := rfl

@[simp] theorem firstTakeable_rename (p : GroupIx) : (s.rename f k).firstTakeable p = s.firstTakeable p := rfl

@[simp] theorem callbackRuns_rename : (s.rename f k).callbackRuns = s.callbackRuns := rfl

@[simp] theorem group_rename (g : GroupIx) : (s.rename f k).group g = renameGroup f k (s.group g) := by
  simp [State.group, State.rename, Vector.get_eq_getElem]

/-- A slot of the renamed state is empty just when it was. -/
@[simp] theorem slotAt_rename (g : GroupIx) (b : BitIx) :
    (s.rename f k).slotAt g b = (s.slotAt g b).map (renameCallback f k) := by
  simp [State.slotAt, renameGroup, Vector.get_eq_getElem]

/-! ### Renaming the callback tokens: what is written -/

/-- A choice that no token decides is made alike in the renamed state. -/
theorem ite_rename {a a' b b' : State} {c : Prop} [Decidable c] (ha : a' = a.rename f k) (hb : b' = b.rename f k) :
    (if c then a' else b') = (if c then a else b).rename f k := by
  rw [ha, hb, apply_ite (State.rename f k)]

@[simp] theorem raise_rename (r : FaultReason) : (s.rename f k).raise r = (s.raise r).rename f k := rfl

@[simp] theorem refuse_rename (r : RefuseReason) : (s.rename f k).refuse r = (s.refuse r).rename f k := rfl

@[simp] theorem latchDraw_rename (g : GroupIx) : (s.rename f k).latchDraw g = (s.latchDraw g).rename f k := rfl

theorem setGroup_rename (g : GroupIx) (r : GroupState) :
    (s.rename f k).setGroup g (renameGroup f k r) = (s.setGroup g r).rename f k := by
  simp [State.setGroup, State.rename]

@[simp] theorem putSlot_rename (g : GroupIx) (b : BitIx) (c : Option Callback) :
    (s.rename f k).putSlot g b (c.map (renameCallback f k)) = (s.putSlot g b c).rename f k := by
  rw [State.putSlot, State.putSlot, ← setGroup_rename, group_rename]
  simp [renameGroup]

@[simp] theorem putEdges_rename (g : GroupIx) (b : BitIx) (r l : Bool) :
    (s.rename f k).putEdges g b r l = (s.putEdges g b r l).rename f k := by
  rw [State.putEdges, State.putEdges, ← setGroup_rename, group_rename]
  rfl

@[simp] theorem resample_rename (g : GroupIx) (b : BitIx) :
    (s.rename f k).resample g b = (s.resample g b).rename f k := by
  rw [State.resample, State.resample, ← setGroup_rename, group_rename]
  rfl

@[simp] theorem enablePin_rename (g : GroupIx) (b : BitIx) :
    (s.rename f k).enablePin g b = (s.enablePin g b).rename f k := rfl

@[simp] theorem disablePin_rename (g : GroupIx) (b : BitIx) :
    (s.rename f k).disablePin g b = (s.disablePin g b).rename f k := by
  have cleared : (s.rename f k).putMaskBit g b false = (s.putMaskBit g b false).rename f k := rfl
  simp only [State.disablePin, cleared, regRead_rename]
  exact ite_rename f k rfl rfl

@[simp] theorem drivePins_rename (g : GroupIx) (v : Byte) :
    (s.rename f k).drivePins g v = (s.drivePins g v).rename f k := rfl

@[simp] theorem enterSection_rename : (s.rename f k).enterSection = s.enterSection.rename f k := rfl

@[simp] theorem exitSection_rename : (s.rename f k).exitSection = s.exitSection.rename f k := by
  simp only [State.exitSection, rename_csStack]
  split <;> rfl

@[simp] theorem callbackReturn_rename : (s.rename f k).callbackReturn = s.callbackReturn.rename f k := by
  cases phase : s.seq with
  | inCallback g saved d trig lvl i =>
    simp only [State.callbackReturn, rename_seq, phase]
    exact ite_rename f k rfl (raise_rename f k s _)
  | idle => simp [State.callbackReturn, phase]
  | entered g saved d => simp [State.callbackReturn, phase]
  | invoke g saved d trig lvl i => simp [State.callbackReturn, phase]

/-! ### Renaming the callback tokens: an executed instruction -/

/-- ATTACH stores the operands of the port as they stand there. -/
theorem attachAt_rename (mode : ModeField) (g : GroupIx) (b : BitIx) :
    (s.rename f k).attachAt mode g b = (s.attachAt mode g b).rename f k := by
  cases port : s.portFn with
  | none => simp [State.attachAt, port]
  | some fn =>
    have stored : (s.rename f k).putSlot g b (some { fn := f fn, arg := k s.portArg }) =
        (s.putSlot g b (some { fn := fn, arg := s.portArg })).rename f k :=
      putSlot_rename f k s g b (some { fn := fn, arg := s.portArg })
    simp [State.attachAt, port, stored]

theorem detachAt_rename (g : GroupIx) (b : BitIx) : (s.rename f k).detachAt g b = (s.detachAt g b).rename f k := by
  have emptied : (s.rename f k).putSlot g b none = (s.putSlot g b none).rename f k := putSlot_rename f k s g b none
  simp [State.detachAt, emptied]

/-- ENABLE asks whether the slot is empty, and not what it holds. -/
theorem enableAt_rename (g : GroupIx) (b : BitIx) : (s.rename f k).enableAt g b = (s.enableAt g b).rename f k := by
  cases slot : s.slotAt g b <;> simp [State.enableAt, slot]

theorem atPin_rename {s : State} {body body' : GroupIx → BitIx → State} (pin : PinId)
    (h : ∀ g b, body' g b = (body g b).rename f k) :
    (s.rename f k).atPin pin body' = (s.atPin pin body).rename f k := by
  cases place : s.locate pin <;> simp [State.atPin, place, h]

/-- Who may issue a command depends on no token. -/
theorem next_issued_rename {s effect effect' : State} (i : Instr) (h : effect' = effect.rename f k) :
    Host.Outcome.next ((s.rename f k).issued i effect') = mapNext (State.rename f k) (.next (s.issued i effect)) :=
  congrArg Host.Outcome.next (ite_rename f k h rfl)

theorem exec_rename (i : Instr) : exec i (s.rename f k) = mapNext (State.rename f k) (exec i s) := by
  cases i with
  | attach pin mode => exact next_issued_rename f k _ (atPin_rename f k pin (attachAt_rename f k s mode))
  | detach pin => exact next_issued_rename f k _ (atPin_rename f k pin (detachAt_rename f k s))
  | enable pin => exact next_issued_rename f k _ (atPin_rename f k pin (enableAt_rename f k s))
  | disable pin => exact next_issued_rename f k _ (atPin_rename f k pin (disablePin_rename f k s))
  | csenter => exact next_issued_rename f k _ (enterSection_rename f k s)
  | csexit => exact next_issued_rename f k _ (exitSection_rename f k s)
  | setgie e => exact next_issued_rename f k _ (ite_rename f k (c := s.seq = .idle) rfl (refuse_rename f k s _))
  | pinwrite g v =>
    exact next_issued_rename f k _
      (ite_rename f k (c := s.cfg.hasGroup g = true) (drivePins_rename f k s g v) (refuse_rename f k s _))
  | cbret => exact next_issued_rename f k _ (callbackReturn_rename f k s)

/-! ### Renaming the callback tokens: the sequencer -/

@[simp] theorem take_rename (g : GroupIx) : (s.rename f k).take g = (s.take g).rename f k := rfl

@[simp] theorem sample_rename (g : GroupIx) (saved : Bool) (d : Nat) :
    (s.rename f k).sample g saved d = (s.sample g saved d).rename f k := by
  have observed := setGroup_rename f k s g { s.group g with state := s.regRead (.live g) }
  rw [State.sample, State.sample, group_rename, regRead_rename]
  exact congrArg (fun t : State =>
    { t with seq := .invoke g saved d (triggerBits (s.group g) (s.regRead (.live g))) (s.regRead (.live g)) 0 }) observed

@[simp] theorem reti_rename (g : GroupIx) (saved : Bool) (d : Nat) :
    (s.rename f k).reti g saved d = (s.reti g saved d).rename f k := by
  unfold State.reti
  exact ite_rename f k rfl (raise_rename f k s _)

@[simp] theorem skipBit_rename (g : GroupIx) (saved : Bool) (d : Nat) (trig lvl : Byte) (i : BitIx) :
    (s.rename f k).skipBit g saved d trig lvl i = (s.skipBit g saved d trig lvl i).rename f k := rfl

/-- INVOKE emits the tokens of the slot as they stand there. -/
@[simp] theorem invokeCallback_rename (g : GroupIx) (saved : Bool) (d : Nat) (trig lvl : Byte) (i : BitIx) (c : Callback) :
    (s.rename f k).invokeCallback g saved d trig lvl i (renameCallback f k c) =
      (s.invokeCallback g saved d trig lvl i c).rename f k := by
  simp [State.invokeCallback, State.emit, State.rename, renameEvent, renameCallback]

@[simp] theorem examineBit_rename (g : GroupIx) (saved : Bool) (d : Nat) (trig lvl : Byte) (i : BitIx) :
    (s.rename f k).examineBit g saved d trig lvl i = (s.examineBit g saved d trig lvl i).rename f k := by
  cases triggered : bitAt trig i with
  | false => simp [State.examineBit, triggered]
  | true => cases slot : s.slotAt g i <;> simp [State.examineBit, triggered, slot]

theorem sequencerStep_rename (p : GroupIx) :
    (s.rename f k).sequencerStep p = (s.sequencerStep p).map (State.rename f k) := by
  cases phase : s.seq with
  | idle => cases taken : s.takeEnabled p <;> simp [State.sequencerStep, phase, taken]
  | entered g saved d => simp [State.sequencerStep, phase]
  | invoke g saved d trig lvl i => simp only [State.sequencerStep, rename_seq, phase]; split <;> simp
  | inCallback g saved d trig lvl i => simp [State.sequencerStep, phase]

@[simp] theorem sequencerTurn_rename (p : GroupIx) :
    (s.rename f k).sequencerTurn p = (s.sequencerTurn p).rename f k := by
  cases move : s.sequencerStep p <;> simp [State.sequencerTurn, sequencerStep_rename, move]

theorem ownStep_rename : (s.rename f k).ownStep = s.ownStep.rename f k := by
  cases phase : s.seq with
  | idle =>
    simp only [State.ownStep, rename_seq, phase, rename_picks, firstTakeable_rename]
    split <;> rfl
  | entered g saved d => simp [State.ownStep, phase]
  | invoke g saved d trig lvl i => simp [State.ownStep, phase]
  | inCallback g saved d trig lvl i => simp [State.ownStep, phase]

/-! ### Renaming the callback tokens: one step -/

/-- The word of a command is no token, so the renamed command decodes to the same instruction. -/
theorem issue_rename (a : Agent) (c : Command) :
    (s.rename f k).issue a (renameCommand f k c) = mapNext (State.rename f k) (s.issue a c) := by
  have word : (renameCommand f k c).word = c.word := rfl
  cases decoded : decode c.word with
  | command i => rw [issue_command (word ▸ decoded), issue_command decoded]; exact exec_rename f k (s.present a c) i
  | reserved r => simp only [State.issue, word, decoded]; rfl

theorem mainlineTurn_rename : (s.rename f k).mainlineTurn = mapNext (State.rename f k) s.mainlineTurn := by
  cases cmds : s.mainlineCmds with
  | nil => simp [State.mainlineTurn, cmds, mapNext]
  | cons c rest =>
    have cmds' : (s.rename f k).mainlineCmds = renameCommand f k c :: rest.map (renameCommand f k) := by simp [cmds]
    by_cases idle : s.seq = .idle
    · rw [mainlineTurn_issues cmds idle, mainlineTurn_issues cmds' idle]
      exact issue_rename f k { s with mainlineCmds := rest } .mainline c
    · rw [mainlineTurn_waits idle, mainlineTurn_waits (s := s.rename f k) idle]
      rfl

theorem callbackTurn_rename : (s.rename f k).callbackTurn = mapNext (State.rename f k) s.callbackTurn := by
  cases cmds : s.callbackCmds with
  | nil => simp [State.callbackTurn, cmds, mapNext]
  | cons c rest =>
    have cmds' : (s.rename f k).callbackCmds = renameCommand f k c :: rest.map (renameCommand f k) := by simp [cmds]
    cases runs : s.callbackRuns with
    | true =>
      rw [callbackTurn_issues cmds runs, callbackTurn_issues cmds' runs]
      exact issue_rename f k { s with callbackCmds := rest } .callback c
    | false =>
      rw [callbackTurn_waits runs, callbackTurn_waits (s := s.rename f k) runs]
      rfl

theorem pinTurn_rename : (s.rename f k).pinTurn = mapNext (State.rename f k) s.pinTurn := by
  cases cmds : s.pinCmds with
  | nil => simp [State.pinTurn, cmds, mapNext]
  | cons c rest =>
    simp only [State.pinTurn, rename_pinCmds, cmds, List.map_cons]
    exact issue_rename f k { s with pinCmds := rest } .pinEnvironment c

theorem takeTurn_rename (t : Turn) : (s.rename f k).takeTurn t = mapNext (State.rename f k) (s.takeTurn t) := by
  cases t with
  | mainline => exact mainlineTurn_rename f k s
  | pinEnvironment => exact pinTurn_rename f k s
  | callback => exact callbackTurn_rename f k s
  | sequencer g => exact congrArg Host.Outcome.next (sequencerTurn_rename f k s g)

end

/-- Settles O53: a stopped block stays stopped for the same reason, and in a running one the turn, the instruction and the
sequencer's move each commute with the renaming. -/
theorem stepCommutesWithRenaming : Obligations.StepCommutesWithRenaming := by
  intro f k s
  simp only [step, State.advance, rename_fault, rename_refused, rename_turns]
  split
  · rfl
  · rfl
  · split
    · exact congrArg Host.Outcome.next (ownStep_rename f k s)
    · rename_i turn rest _
      exact takeTurn_rename f k { s with turns := rest } turn

end Sys2Proof.Machine
end

section
/-! PROOFS, the state (10_state.md): what the step can do to each element of the block, and the invariants that it keeps. -/

namespace Sys2Proof.Machine

/-! ### A running block steps, a stopped one does not (10_state.md R36) -/

/-- Settles O11: a state with a next state is not stopped. -/
theorem stoppedBlockHasNoStep : Obligations.StoppedBlockHasNoStep := by
  intro s stopped t h
  obtain ⟨noFault, noRefusal⟩ := running_of_step h
  rcases stopped with faulted | refused
  · exact faulted noFault
  · exact refused noRefusal

theorem issue_next (s : State) (a : Agent) (c : Command) : ∃ t, s.issue a c = .next t := by
  cases decoded : decode c.word with
  | command i => rw [issue_command decoded]; exact exec_next i _
  | reserved k => exact ⟨(s.present a c).refuse .reservedEncoding, by simp only [State.issue, decoded]⟩

theorem mainlineTurn_next (s : State) : ∃ t, s.mainlineTurn = .next t := by
  unfold State.mainlineTurn
  split
  · exact ⟨s, rfl⟩
  · split
    · exact issue_next _ _ _
    · exact ⟨s, rfl⟩

theorem callbackTurn_next (s : State) : ∃ t, s.callbackTurn = .next t := by
  unfold State.callbackTurn
  split
  · exact ⟨s, rfl⟩
  · split
    · exact issue_next _ _ _
    · exact ⟨s, rfl⟩

theorem pinTurn_next (s : State) : ∃ t, s.pinTurn = .next t := by
  unfold State.pinTurn
  split
  · exact ⟨s, rfl⟩
  · exact issue_next _ _ _

theorem takeTurn_next (s : State) (turn : Turn) : ∃ t, s.takeTurn turn = .next t := by
  cases turn with
  | mainline => exact mainlineTurn_next s
  | pinEnvironment => exact pinTurn_next s
  | callback => exact callbackTurn_next s
  | sequencer g => exact ⟨s.sequencerTurn g, rfl⟩

/-- Settles O12: with no turn left the sequencer's own step answers a state, and so does every agent's turn. -/
theorem runningBlockAlwaysSteps : Obligations.RunningBlockAlwaysSteps := by
  intro s running
  rw [step, advance_of_running running]
  split
  · exact ⟨s.ownStep, rfl⟩
  · exact takeTurn_next _ _

/-! ### The effect of a step

A step first lets the schedule choose: a turn passes, and the command of that turn, if one is issued, moves to the port.
No element of 10_state.md changes by that. What the chosen agent or the sequencer then does to the block is one of the
effects listed by `State.Effect`. -/

/-- `r` is `s` after the schedule has chosen the next step: the block itself is as it was. -/
structure State.Scheduled (s r : State) : Prop where
  cfg : r.cfg = s.cfg
  groups : r.groups = s.groups
  mask : r.mask = s.mask
  grpen : r.grpen = s.grpen
  live : r.live = s.live
  pend : r.pend = s.pend
  gie : r.gie = s.gie
  csStack : r.csStack = s.csStack
  seq : r.seq = s.seq
  trace : r.trace = s.trace
  fault : r.fault = s.fault
  refused : r.refused = s.refused
  /-- In interrupt context the mainline issues nothing (10_state.md R34). -/
  mainlineWaits : s.seq ≠ .idle → r.mainlineCmds = s.mainlineCmds

/-- What a step from `s` does to the block once the schedule has left `r`. -/
inductive State.Effect (s r : State) : State → Prop where
  /-- Nothing: the turn alone passes, or a command has no effect. -/
  | pass : Effect s r r
  /-- The refusal mark alone (60_exceptions.md R202). -/
  | refuse (reason : RefuseReason) : Effect s r (r.refuse reason)
  /-- The fault mark alone (60_exceptions.md R201). -/
  | raise (reason : FaultReason) : Effect s r (r.raise reason)
  /-- TAKE (60_exceptions.md R205, R206). -/
  | take (g : GroupIx) (enabled : s.takeEnabled g = true) : Effect s r (r.take g)
  /-- SAMPLE (42_dispatch.md R164). -/
  | sample {g : GroupIx} {saved : Bool} {d : Nat} (phase : s.seq = .entered g saved d) : Effect s r (r.sample g saved d)
  /-- INVOKE (42_dispatch.md R166). -/
  | invoke {g : GroupIx} {saved : Bool} {d : Nat} {trig lvl : Byte} {i : BitIx} {c : Callback}
      (phase : s.seq = .invoke g saved d trig lvl i.castSucc) (triggered : bitAt trig i = true)
      (slot : s.slotAt g i = some c) : Effect s r (r.invokeCallback g saved d trig lvl i c)
  /-- SKIP (42_dispatch.md R167). -/
  | skip {g : GroupIx} {saved : Bool} {d : Nat} {trig lvl : Byte} {i : BitIx}
      (phase : s.seq = .invoke g saved d trig lvl i.castSucc) : Effect s r (r.skipBit g saved d trig lvl i)
  /-- RETI at the depth that TAKE found (60_exceptions.md R210). -/
  | reti {g : GroupIx} {saved : Bool} {d : Nat} {trig lvl : Byte} (phase : s.seq = .invoke g saved d trig lvl 8) :
      Effect s r { r with gie := saved, seq := .idle }
  /-- A registration command of the mainline or a callback, at its pin's place (40_registration.md R100). -/
  | register {a : Agent} {c : Command} {i : Instr} {pin : PinId} {g : GroupIx} {b : BitIx} {t : State}
      (issued : s.nextIssue = some (a, c)) (lawful : a = .mainline ∨ a = .callback) (decoded : decode c.word = .command i)
      (operand : pinOperand i = some pin) (place : s.locate pin = some (g, b)) (registered : r.Registered t g b) :
      Effect s r t
  /-- CSENTER (41_critical_section.md R141). -/
  | csenter : Effect s r r.enterSection
  /-- CSEXIT with a section open (41_critical_section.md R144; log 15). -/
  | csexit (saved : Bool) (rest : List Bool) :
      Effect s r { r with gie := saved && decide (r.seq = .idle), csStack := rest }
  /-- SETGIE in mainline context (41_critical_section.md R147). -/
  | setgie (e : Bool) (idle : s.seq = .idle) : Effect s r { r with gie := e }
  /-- PINWRITE of the pin environment to a group that exists (42_dispatch.md R160). -/
  | pinwrite {c : Command} {g : GroupIx} {v : Byte} (issued : s.nextIssue = some (.pinEnvironment, c))
      (decoded : decode c.word = .command (.pinwrite g v)) (present : s.cfg.hasGroup g = true) :
      Effect s r (r.drivePins g v)
  /-- CBRET (42_dispatch.md R168). -/
  | cbret {g : GroupIx} {saved : Bool} {d : Nat} {trig lvl : Byte} {i : BitIx}
      (phase : s.seq = .inCallback g saved d trig lvl i) : Effect s r { r with seq := .invoke g saved d trig lvl i.succ }

namespace State.Scheduled

variable {s r : State} (chosen : s.Scheduled r)
include chosen

theorem group (g : GroupIx) : r.group g = s.group g := group_congr chosen.groups g

theorem slotAt (g : GroupIx) (b : BitIx) : r.slotAt g b = s.slotAt g b := slotAt_congr chosen.groups g b

theorem pending (g : GroupIx) : r.pending g = s.pending g := pending_congr chosen.pend g

theorem groupEnabled (g : GroupIx) : r.groupEnabled g = s.groupEnabled g := groupEnabled_congr chosen.grpen chosen.cfg g

theorem locate (pin : PinId) : r.locate pin = s.locate pin := congrArg (locateOn · pin) chosen.cfg

theorem takeEnabled (g : GroupIx) : r.takeEnabled g = s.takeEnabled g := by
  simp only [State.takeEnabled, chosen.seq, chosen.gie, chosen.groupEnabled, chosen.pending, chosen.fault, chosen.refused]

end State.Scheduled

/-- `s` with another count of free choices (log 4). -/
def State.withPicks (s : State) (n : Nat) : State := { s with picks := n }

theorem turnTaken_scheduled (s : State) (n : Nat) : s.Scheduled (s.turnTaken.withPicks n) := by
  constructor <;> intros <;> rfl

theorem fetched_scheduled {s : State} {a : Agent} {c : Command} (issued : s.nextIssue = some (a, c)) :
    s.Scheduled (s.fetched a c) := by
  obtain ⟨-, -, -, -, waits⟩ := nextIssue_issuer issued
  constructor
  case mainlineWaits => exact waits
  all_goals rw [fetched_frame]

/-- The sequencer's moves are effects of a step, and no move reads or writes the count of free choices (log 4). -/
theorem effect_of_sequencerStep {s r t : State} {p : GroupIx} (chosen : s.Scheduled r) (moved : r.sequencerStep p = some t)
    (n : Nat) : s.Effect r t ∧ s.Effect (r.withPicks n) (t.withPicks n) := by
  rcases sequencerStep_cases moved with ⟨enabled, rfl⟩ | ⟨g, saved, d, phase, rfl⟩ |
    ⟨g, saved, d, trig, lvl, i, c, phase, triggered, slot, rfl⟩ | ⟨g, saved, d, trig, lvl, i, phase, -, rfl⟩ |
    ⟨g, saved, d, trig, lvl, phase, rfl⟩
  · rw [chosen.takeEnabled] at enabled
    exact ⟨.take p enabled, .take p enabled⟩
  · rw [chosen.seq] at phase
    exact ⟨.sample phase, .sample phase⟩
  · rw [chosen.seq] at phase
    rw [chosen.slotAt] at slot
    exact ⟨.invoke phase triggered slot, .invoke phase triggered slot⟩
  · rw [chosen.seq] at phase
    exact ⟨.skip phase, .skip phase⟩
  · rw [chosen.seq] at phase
    unfold State.reti
    split
    · exact ⟨.reti phase, .reti phase⟩
    · exact ⟨.raise _, .raise _⟩

/-- Only the mainline and the callback may issue a registration command (30_encoding.md R73). -/
theorem mayIssue_registration {a : Agent} {i : Instr} {pin : PinId} (lawful : mayIssue a i = true)
    (operand : pinOperand i = some pin) : a = .mainline ∨ a = .callback := by
  cases i <;> simp_all [mayIssue, pinOperand]

/-- What an issued command does once it is on the port is an effect of a step. -/
theorem effect_of_exec {s t : State} {a : Agent} {c : Command} {i : Instr} (issued : s.nextIssue = some (a, c))
    (decoded : decode c.word = .command i) (executed : exec i (s.fetched a c) = .next t) : s.Effect (s.fetched a c) t := by
  have chosen := fetched_scheduled issued
  obtain ⟨issuer, -⟩ := nextIssue_issuer issued
  rcases exec_effects executed with rfl | ⟨reason, rfl⟩ | ⟨reason, rfl⟩ |
    ⟨lawful, pin, g, b, operand, place, registered⟩ | ⟨-, -, rfl⟩ | ⟨-, -, saved, rest, -, rfl⟩ |
    ⟨e, -, idle, -, rfl⟩ | ⟨g, v, rfl, environment, present, rfl⟩ | ⟨-, -, g, saved, d, trig, lvl, i, phase, rfl⟩
  · exact .pass
  · exact .refuse reason
  · exact .raise reason
  · exact .register issued (mayIssue_registration (issuer ▸ lawful) operand) decoded operand (chosen.locate pin ▸ place)
      registered
  · exact .csenter
  · exact .csexit saved rest
  · exact .setgie e (chosen.seq ▸ idle)
  · have a_eq : a = .pinEnvironment := issuer.symm.trans environment
    exact .pinwrite (a_eq ▸ issued) decoded (chosen.cfg ▸ present)
  · exact .cbret (chosen.seq ▸ phase)

/-- Every step is a choice of the schedule and then an effect. -/
theorem effect_of_step {s t : State} (h : step s = .next t) : ∃ r, s.Scheduled r ∧ s.Effect r t := by
  obtain ⟨-, rfl | ⟨g, u, moved, rfl | rfl⟩ | ⟨a, c, issued, ⟨i, decoded, executed⟩ | ⟨k, -, rfl⟩⟩⟩ := step_cases h
  · exact ⟨_, turnTaken_scheduled s s.picks, .pass⟩
  · obtain ⟨effect, -⟩ := effect_of_sequencerStep (turnTaken_scheduled s s.picks) moved s.picks
    exact ⟨_, turnTaken_scheduled s s.picks, effect⟩
  · obtain ⟨-, effect⟩ := effect_of_sequencerStep (turnTaken_scheduled s s.picks) moved (s.picks + 1)
    exact ⟨_, turnTaken_scheduled s (s.picks + 1), effect⟩
  · exact ⟨_, fetched_scheduled issued, effect_of_exec issued decoded executed⟩
  · exact ⟨_, fetched_scheduled issued, .refuse _⟩

/-! ### What PINWRITE and SAMPLE do to the elements they write -/

/-- PINWRITE clears no request (10_state.md R30). -/
theorem drivePins_pending (s : State) (g : GroupIx) (v : Byte) {h : GroupIx} (requested : s.pending h = true) :
    (s.drivePins g v).pending h = true := by
  have latched := pending_latchRequest (s.regWrite (.live g) v) g h
    (requestDetected (s.regRead (.live g)) v (s.regRead (.mask g)))
  rw [State.drivePins, latched]
  split
  · rename_i own
    subst own
    exact Bool.or_eq_true_iff.mpr (.inl requested)
  · exact requested

/-- SAMPLE writes the state byte of the sampled group alone (42_dispatch.md R164). -/
theorem group_sample (s : State) (g h : GroupIx) (saved : Bool) (d : Nat) :
    (s.sample g saved d).group h =
      if g = h then { s.group g with state := s.regRead (.live g) } else s.group h :=
  group_setGroup s g h _

theorem group_sample_frame (s : State) (g h : GroupIx) (saved : Bool) (d : Nat) :
    (s.sample g saved d).group h = { s.group h with state := ((s.sample g saved d).group h).state } := by
  rw [group_sample]
  split
  · rename_i own
    rw [own]
  · rfl

/-! ### What a registration command does not write -/

section
variable {s t : State} {g : GroupIx} {b : BitIx}

theorem registered_live (h : s.Registered t g b) : t.live = s.live := by rw [registered_frame h]

theorem registered_gie (h : s.Registered t g b) : t.gie = s.gie := by rw [registered_frame h]

theorem registered_trace (h : s.Registered t g b) : t.trace = s.trace := by rw [registered_frame h]

theorem registered_mainlineCmds (h : s.Registered t g b) : t.mainlineCmds = s.mainlineCmds := by rw [registered_frame h]

end

/-! ### Who writes which element (10_state.md R41) -/

/-- Settles O46: INVOKE is the only effect that writes TRACE. -/
theorem traceGrowsOnlyByInvoke : Obligations.TraceGrowsOnlyByInvoke := by
  intro s t h
  obtain ⟨r, chosen, effect⟩ := effect_of_step h
  cases effect with
  | invoke phase triggered slot =>
    exact .inr ⟨_, _, _, _, _, _, _, phase, triggered, slot, rfl, congrArg (· ++ _) chosen.trace⟩
  | register _ _ _ _ _ registered => exact .inl ((registered_trace registered).trans chosen.trace)
  | _ => exact .inl chosen.trace

/-- Settles O13: the schedule gives the mainline no command in interrupt context, and no effect takes one. -/
theorem dispatchKeepsTheMainlinesCommands : Obligations.DispatchKeepsTheMainlinesCommands := by
  intro s t h dispatching
  obtain ⟨r, chosen, effect⟩ := effect_of_step h
  have waits := chosen.mainlineWaits dispatching
  cases effect with
  | register _ _ _ _ _ registered => exact (registered_mainlineCmds registered).trans waits
  | _ => exact waits

/-- Settles O47: PINWRITE and the registration commands only set requests, and TAKE clears that of its own group alone. -/
theorem requestsAreClearedOnlyByTake : Obligations.RequestsAreClearedOnlyByTake := by
  intro s t g h requested cleared
  obtain ⟨r, chosen, effect⟩ := effect_of_step h
  have requested' : r.pending g = true := (chosen.pending g).trans requested
  have notCleared : t.pending g ≠ true := by simp [cleared]
  cases effect with
  | take k enabled =>
    by_cases own : k = g
    · subst own
      refine ⟨enabled, ?_, rfl⟩
      change Seq.entered k r.gie r.csStack.length = _
      rw [chosen.gie, takeEnabled_gie enabled, chosen.csStack]
    · have kept := pending_clearRequest r k g
      rw [if_neg own] at kept
      exact absurd (kept.trans requested') notCleared
  | register _ _ _ _ _ registered => exact absurd (registered_pending registered requested') notCleared
  | @pinwrite _ k v _ _ _ => exact absurd (drivePins_pending r k v requested') notCleared
  | _ => exact absurd requested' notCleared

/-- Settles O48: PINWRITE is the only effect that writes LIVE. -/
theorem liveIsWrittenOnlyByPinwrite : Obligations.LiveIsWrittenOnlyByPinwrite := by
  intro s t h changed
  obtain ⟨r, chosen, effect⟩ := effect_of_step h
  cases effect with
  | @pinwrite c g v issued decoded present =>
    exact ⟨c, g, v, issued, decoded, present, congrArg (·.set g v) chosen.live⟩
  | register _ _ _ _ _ registered => exact absurd ((registered_live registered).trans chosen.live) changed
  | _ => exact absurd chosen.live changed

/-- Settles O49: SAMPLE writes the state byte of its own group, and a registration command leaves every group alone that is
not its pin's. -/
theorem groupStateChangesOnlyByItsOwnSteps : Obligations.GroupStateChangesOnlyByItsOwnSteps := by
  intro s t h stepped changed
  obtain ⟨r, chosen, effect⟩ := effect_of_step stepped
  cases effect with
  | @sample g saved d phase =>
    have sampled := group_sample r g h saved d
    by_cases own : g = h
    · subst own
      rw [if_pos rfl, chosen.group, regRead_live, chosen.live] at sampled
      exact .inl ⟨saved, d, phase, sampled⟩
    · rw [if_neg own, chosen.group] at sampled
      exact absurd sampled changed
  | @register a c i pin g b _ issued _ decoded operand place registered =>
    by_cases own : g = h
    · exact .inr ⟨a, c, i, pin, b, issued, decoded, operand, own ▸ place⟩
    · obtain ⟨sameGroup, -, -⟩ := registered_other own registered
      exact absurd (sameGroup.trans (chosen.group h)) changed
  | _ => exact absurd (chosen.group h) changed

/-- Settles O50: only a registration command writes MASK or GRPEN, and it leaves those of every group alone that is not its
pin's. -/
theorem maskAndEnableChangeOnlyByRegistration : Obligations.MaskAndEnableChangeOnlyByRegistration := by
  intro s t h stepped changed
  obtain ⟨r, chosen, effect⟩ := effect_of_step stepped
  have sameMask : r.mask.get h = s.mask.get h := congrArg (·.get h) chosen.mask
  have sameEnable := chosen.groupEnabled h
  have unchanged : ¬(t.mask.get h = s.mask.get h ∧ t.groupEnabled h = s.groupEnabled h) := not_and_or.mpr changed
  cases effect with
  | @register a c i pin g b _ issued lawful decoded operand place registered =>
    by_cases own : g = h
    · exact ⟨a, c, i, pin, b, issued, lawful, decoded, operand, own ▸ place⟩
    · obtain ⟨-, mask, enable⟩ := registered_other own registered
      exact absurd ⟨mask.trans sameMask, enable.trans sameEnable⟩ unchanged
  | _ => exact absurd ⟨sameMask, sameEnable⟩ unchanged

/-- Settles O52: in a dispatch CSEXIT leaves GIE 0 (log 15) and TAKE and SETGIE are out, which leaves RETI alone to set it. -/
theorem gieInADispatchIsSetOnlyByReturn : Obligations.GieInADispatchIsSetOnlyByReturn := by
  intro s t h dispatching wasClear isSet
  obtain ⟨r, chosen, effect⟩ := effect_of_step h
  have stillClear : r.gie ≠ true := by simp [chosen.gie, wasClear]
  cases effect with
  | @reti g saved d trig lvl phase =>
    have restored : saved = true := isSet
    exact ⟨rfl, g, d, trig, lvl, restored ▸ phase⟩
  | register _ _ _ _ _ registered => exact absurd ((registered_gie registered).symm.trans isSet) stillClear
  | take g enabled => exact absurd (takeEnabled_idle enabled) dispatching
  | setgie e idle => exact absurd idle dispatching
  | csenter => cases isSet
  | csexit saved rest =>
    have outside : (saved && decide (r.seq = .idle)) = true := isSet
    simp [chosen.seq, dispatching] at outside
  | _ => exact absurd isSet stillClear

/-! ### The registration invariant (10_state.md R37 to R39, R28) -/

theorem powerOn_registrationInv (cfg : Platform) (live : Vector Byte 4) : (State.powerOn cfg live).RegistrationInv := by
  have noMask (g : GroupIx) : (State.powerOn cfg live).mask.get g = 0x00#8 := by
    simp [State.powerOn, Vector.get_eq_getElem]
  have group (g : GroupIx) : (State.powerOn cfg live).group g = GroupState.reset := by
    simp [State.powerOn, State.group, Vector.get_eq_getElem]
  have noEnable (g : GroupIx) : (State.powerOn cfg live).groupEnabled g = false := by
    rw [groupEnabled_eq]
    exact congrArg (· && _) (bitAt_zero _)
  constructor
  case maskedHasSlot => simp [noMask]
  case emptyHasNoEdge => simp [group, GroupState.reset]
  case enabledIffMasked => simp [noEnable, noMask]
  case grpenReserved => exact BitVec.zero_and

/-- Settles O45: at reset every mask, edge and enable bit is 0, whatever the platform and LIVE. -/
theorem resetMeetsTheRegistrationInvariant : Obligations.ResetMeetsTheRegistrationInvariant :=
  powerOn_registrationInv _ _

/-- The invariant reads the configuration, the registers, the slots and the edge masks, and nothing else. -/
theorem registrationInv_congr {s t : State} (cfg : t.cfg = s.cfg) (mask : t.mask = s.mask) (grpen : t.grpen = s.grpen)
    (slot : ∀ g, (t.group g).slot = (s.group g).slot) (rise : ∀ g, (t.group g).rise = (s.group g).rise)
    (fall : ∀ g, (t.group g).fall = (s.group g).fall) (inv : s.RegistrationInv) : t.RegistrationInv := by
  obtain ⟨masked, edges, enabled, reserved⟩ := inv
  have slotAt (g : GroupIx) (b : BitIx) : t.slotAt g b = s.slotAt g b := congrArg (·.get b) (slot g)
  constructor
  · intro g b bitSet
    rw [regRead_mask, mask] at bitSet
    rw [slotAt]
    exact masked g b bitSet
  · intro g b empty
    rw [slotAt] at empty
    rw [rise, fall]
    exact edges g b empty
  · intro g
    rw [groupEnabled_congr grpen cfg, regRead_mask, mask]
    exact enabled g
  · rw [regRead_grpen_congr grpen cfg, grpen]
    exact reserved

/-- A write of GRPEN leaves 0 in its reserved bits (10_state.md R28). -/
theorem putGroupEnable_grpenReserved (s : State) (g : GroupIx) (x : Bool) :
    (s.putGroupEnable g x).regRead .grpen = (s.putGroupEnable g x).grpen := by
  simp [State.putGroupEnable, State.regRead, State.regWrite, BitVec.and_assoc]

theorem disablePin_grpenReserved {s : State} (g : GroupIx) (b : BitIx) (reserved : s.regRead .grpen = s.grpen) :
    (s.disablePin g b).regRead .grpen = (s.disablePin g b).grpen := by
  unfold State.disablePin
  dsimp only
  split
  · exact putGroupEnable_grpenReserved _ g false
  · exact reserved

/-- A group with a set mask bit has a nonzero mask register. -/
theorem mask_ne_zero_of_bit {s : State} {g : GroupIx} {b : BitIx} (bitSet : bitAt (s.mask.get g) b = true) :
    s.mask.get g ≠ 0x00#8 := (byte_ne_zero_iff _).mpr ⟨b, bitSet⟩

/-- Enabling a pin of an existing group with a callback keeps the invariant (R37, R39). -/
theorem enablePin_registrationInv {s : State} {g : GroupIx} {b : BitIx} (inv : s.RegistrationInv)
    (present : s.cfg.hasGroup g = true) (populated : s.slotAt g b ≠ none) : (s.enablePin g b).RegistrationInv := by
  obtain ⟨masked, edges, enabled, -⟩ := inv
  have mask := bitAt_mask_enablePin s g
  constructor
  · intro h k bitSet
    rw [regRead_mask, mask] at bitSet
    split at bitSet
    · rename_i own
      obtain ⟨rfl, rfl⟩ := own
      exact populated
    · exact masked h k bitSet
  · exact edges
  · intro h
    rw [groupEnabled_enablePin, regRead_mask]
    by_cases own : g = h
    · subst own
      have nonzero : (s.enablePin g b).mask.get g ≠ 0x00#8 := mask_ne_zero_of_bit (b := b) (by simp [mask])
      simp [present, nonzero]
    · have other : (s.enablePin g b).mask.get h = s.mask.get h := mask_putMaskBit_of_ne s g h b own true
      rw [if_neg own, other]
      exact enabled h
  · exact putGroupEnable_grpenReserved _ g true

/-- Activating a pin (the common end of ATTACH and ENABLE) keeps the invariant, since re-sampling and the draw write nothing
that it reads. -/
theorem activate_registrationInv {s : State} {g : GroupIx} {b : BitIx} (inv : s.RegistrationInv)
    (present : s.cfg.hasGroup g = true) (populated : s.slotAt g b ≠ none) :
    (((s.enablePin g b).resample g b).latchDraw g).RegistrationInv :=
  registrationInv_congr (s := s.enablePin g b) rfl rfl rfl (slot_resample _ g · b) (rise_resample _ g · b)
    (fall_resample _ g · b) (enablePin_registrationInv inv present populated)

/-- Storing a callback with its edges keeps the invariant (R37, R38). -/
theorem store_registrationInv {s : State} (g : GroupIx) (b : BitIx) (c : Callback) (r f : Bool)
    (inv : s.RegistrationInv) : ((s.putSlot g b (some c)).putEdges g b r f).RegistrationInv := by
  obtain ⟨masked, edges, enabled, reserved⟩ := inv
  constructor
  · intro h k bitSet
    rw [slotAt_putEdges, slotAt_putSlot]
    split
    · simp
    · exact masked h k bitSet
  · intro h k empty
    rw [slotAt_putEdges, slotAt_putSlot] at empty
    rw [bitAt_rise_putEdges, bitAt_fall_putEdges, rise_putSlot, fall_putSlot]
    split at empty
    · cases empty
    · rename_i other
      rw [if_neg other, if_neg other]
      exact edges h k empty
  · exact enabled
  · exact reserved

/-- Disabling a pin leaves a state that meets the invariant, if at most the pin's own mask bit stood over an empty slot. -/
theorem disablePin_registrationInv {s : State} {g : GroupIx} {b : BitIx}
    (masked : ∀ h k, ¬(g = h ∧ b = k) → bitAt (s.mask.get h) k = true → s.slotAt h k ≠ none)
    (edges : ∀ h k, s.slotAt h k = none → bitAt (s.group h).rise k = false ∧ bitAt (s.group h).fall k = false)
    (enabled : ∀ h, s.groupEnabled h = true ↔ s.mask.get h ≠ 0x00#8) (reserved : s.regRead .grpen = s.grpen) :
    (s.disablePin g b).RegistrationInv := by
  have groups : (s.disablePin g b).groups = s.groups := by rw [disablePin_frame]
  have mask := bitAt_mask_disablePin s g
  constructor
  · intro h k bitSet
    rw [regRead_mask, mask] at bitSet
    rw [slotAt_congr groups]
    split at bitSet
    · cases bitSet
    · exact masked h k ‹_› bitSet
  · intro h k
    rw [slotAt_congr groups, group_congr groups]
    exact edges h k
  · intro h
    rw [groupEnabled_disablePin, regRead_mask]
    by_cases own : g = h
    · subst own
      by_cases left : (s.disablePin g b).mask.get g = 0x00#8
      · simp [left]
      · obtain ⟨k, bitSet⟩ := (byte_ne_zero_iff _).mp left
        rw [mask] at bitSet
        split at bitSet
        · cases bitSet
        · simp [left, enabled, mask_ne_zero_of_bit bitSet]
    · have other : (s.disablePin g b).mask.get h = s.mask.get h := by
        rw [mask_disablePin, mask_putMaskBit_of_ne s g h b own]
      rw [if_neg (by simp [own]), other]
      exact enabled h
  · exact disablePin_grpenReserved g b reserved

theorem detachAt_registrationInv {s : State} (g : GroupIx) (b : BitIx) (inv : s.RegistrationInv) :
    (s.detachAt g b).RegistrationInv := by
  obtain ⟨masked, edges, enabled, reserved⟩ := inv
  refine disablePin_registrationInv (fun h k other bitSet => ?_) (fun h k empty => ?_) enabled reserved
  · rw [slotAt_putEdges, slotAt_putSlot, if_neg other]
    exact masked h k bitSet
  · rw [slotAt_putEdges, slotAt_putSlot] at empty
    rw [bitAt_rise_putEdges, bitAt_fall_putEdges, rise_putSlot, fall_putSlot]
    split
    · exact ⟨rfl, rfl⟩
    · rename_i other
      rw [if_neg other] at empty
      exact edges h k empty

/-- SAMPLE keeps the invariant, which does not read the state byte. -/
theorem sample_registrationInv {s : State} (g : GroupIx) (saved : Bool) (d : Nat) (inv : s.RegistrationInv) :
    (s.sample g saved d).RegistrationInv := by
  have frame (h : GroupIx) := group_sample_frame s g h saved d
  exact registrationInv_congr (s := s) rfl rfl rfl (fun h => congrArg (·.slot) (frame h))
    (fun h => congrArg (·.rise) (frame h)) (fun h => congrArg (·.fall) (frame h)) inv

/-- Every registration command keeps the invariant (10_state.md section 5). -/
theorem registered_registrationInv {s t : State} {g : GroupIx} {b : BitIx} (registered : s.Registered t g b)
    (present : s.cfg.hasGroup g = true) (inv : s.RegistrationInv) : t.RegistrationInv := by
  rcases registered with ⟨fn, mode, port, rfl⟩ | rfl | ⟨c, slot, rfl⟩ | rfl
  · rw [attachAt_some port]
    exact activate_registrationInv (store_registrationInv g b _ _ _ inv) present (by simp [slotAt_putSlot])
  · exact detachAt_registrationInv g b inv
  · rw [enableAt_some slot]
    exact activate_registrationInv inv present (by simp [slot])
  · obtain ⟨masked, edges, enabled, reserved⟩ := inv
    exact disablePin_registrationInv (fun h k _ => masked h k) edges enabled reserved

/-- Settles O44: a registration command keeps the invariant at its pin's place; SAMPLE writes a state byte, which the
invariant does not read, and no other effect writes Group State, MASK or GRPEN. -/
theorem everyStepKeepsTheRegistrationInvariant : Obligations.EveryStepKeepsTheRegistrationInvariant := by
  intro s t inv h
  obtain ⟨r, chosen, effect⟩ := effect_of_step h
  have inv' : r.RegistrationInv :=
    registrationInv_congr chosen.cfg chosen.mask chosen.grpen (fun g => congrArg (·.slot) (chosen.group g))
      (fun g => congrArg (·.rise) (chosen.group g)) (fun g => congrArg (·.fall) (chosen.group g)) inv
  cases effect with
  | pass => exact inv'
  | sample phase => exact sample_registrationInv _ _ _ inv'
  | register _ _ _ _ place registered =>
    exact registered_registrationInv registered (chosen.cfg ▸ hasGroup_of_locate place) inv'
  | _ => exact registrationInv_congr (s := r) rfl rfl rfl (fun _ => rfl) (fun _ => rfl) (fun _ => rfl) inv'

/-! ### The reserved bits of GRPEN (10_state.md R28) -/

/-- Settles O56: reads and writes of GRPEN both go through the bits that exist. -/
theorem grpenReservedBits : Obligations.GrpenReservedBits := by
  intro s v i reserved
  have notImplemented : bitAt (grpenImplemented s.cfg) i = false := by
    rw [bitAt_grpenImplemented]
    exact decide_eq_false (Nat.not_lt.mpr reserved)
  refine ⟨?_, ?_, ?_⟩
  · rw [State.regRead, bitAt_and, notImplemented, Bool.and_false]
  · rw [State.regRead, bitAt_and]
    exact (congrArg (_ && ·) notImplemented).trans (Bool.and_false _)
  · have written : setBit v i true &&& grpenImplemented s.cfg = setBit v i false &&& grpenImplemented s.cfg := by
      refine byte_ext fun j => ?_
      by_cases own : i = j
      · subst own
        simp [notImplemented]
      · simp [bitAt_setBit_of_ne own]
    simp only [State.regWrite, written]

end Sys2Proof.Machine
end

section
/-! PROOFS, the memory (20_memory.md): the byte form of a command (R53, 30_encoding.md R83) and the register map (R51). -/

namespace Sys2Proof

/-! ### The word of an instruction, field by field (30_encoding.md R71, R77) -/

theorem row_admits_encode (i : Instr) : i.row.admits (encode i) = true := by
  cases i with
  | attach pin mode => exact Laws.RowMatches.attach pin mode
  | detach pin => exact Laws.RowMatches.detach pin
  | enable pin => exact Laws.RowMatches.enable pin
  | disable pin => exact Laws.RowMatches.disable pin
  | csenter => exact Laws.RowMatches.csenter
  | csexit => exact Laws.RowMatches.csexit
  | setgie e => exact Laws.RowMatches.setgie e
  | pinwrite g v => exact Laws.RowMatches.pinwrite g v
  | cbret => exact Laws.RowMatches.cbret

theorem and_mask_of_admits {r : OpcodeRow} {w : CmdWord} (h : r.admits w = true) : w &&& r.mask = r.pattern :=
  eq_of_beq h

/-- A row whose mask covers OP fixes the opcode (30_encoding.md R77). -/
theorem opField_of_admits {r : OpcodeRow} {w : CmdWord} (h : r.admits w = true) (covers : opField r.mask = 0xF#4) :
    opField w = opField r.pattern := by
  rw [← and_mask_of_admits h, opField, opField, BitVec.extractLsb'_and]
  have ones : r.mask.extractLsb' 28 4 = BitVec.allOnes 4 := covers
  rw [ones, BitVec.and_allOnes]

/-- The OP value of each command (30_encoding.md R77). -/
def Instr.opcode : Instr → Nat
  | .attach _ _ => 0x1
  | .detach _ => 0x2
  | .enable _ => 0x3
  | .disable _ => 0x4
  | .csenter => 0x5
  | .csexit => 0x6
  | .setgie _ => 0x7
  | .pinwrite _ _ => 0x8
  | .cbret => 0x9

theorem toNat_opField_encode (i : Instr) : (opField (encode i)).toNat = i.opcode := by
  have covers : opField i.row.mask = 0xF#4 := by cases i <;> simp [Instr.row, opField]
  rw [opField_of_admits (row_admits_encode i) covers]
  cases i <;> simp [Instr.row, opField, Instr.opcode]

/-- The must-be-zero bits of an instruction's word are those that its row's mask covers below OP, and the test of
30_encoding.md R81 passes on them. -/
theorem checkZeros_encode (i j : Instr) {zeros : CmdWord}
    (covered : i.row.mask &&& 0x0FFFFFFF#32 = zeros := by rw [Instr.row]; rfl) :
    checkZeros (encode i) zeros j = .command j := by
  have belowOp : i.row.pattern &&& 0x0FFFFFFF#32 = 0#32 := by cases i <;> simp [Instr.row]
  refine checkZeros_eq_command.mpr ⟨?_, rfl⟩
  rw [← covered, ← BitVec.and_assoc, and_mask_of_admits (row_admits_encode i), belowOp]

/-- The pin of a registration command stands in PIN, above the 16 low bits (30_encoding.md R71). -/
theorem pinField_encode {i : Instr} {pin : PinId} (operand : Machine.pinOperand i = some pin) :
    pinField (encode i) = pin := by
  have field (hi : Byte) (p : PinId) (lo : BitVec 16) : pinField (hi ++ p ++ lo) = p := by
    rw [pinField, BitVec.extractLsb'_append_eq_of_le (by decide)]
    exact BitVec.extractLsb'_append_eq_right
  cases i with
  | attach p mode => exact (field _ p 0#16).trans (Option.some.inj operand)
  | detach p => exact (field _ p 0#16).trans (Option.some.inj operand)
  | enable p => exact (field _ p 0#16).trans (Option.some.inj operand)
  | disable p => exact (field _ p 0#16).trans (Option.some.inj operand)
  | _ => cases operand

theorem modeField_encode_attach (pin : PinId) (mode : ModeField) :
    modeField (encode (.attach pin mode)) = mode.toBits := by
  rw [modeField, encode, BitVec.extractLsb'_append_eq_of_le (by decide), BitVec.extractLsb'_append_eq_of_le (by decide),
    BitVec.extractLsb'_append_eq_of_le (by decide)]
  exact BitVec.extractLsb'_append_eq_right

theorem grpField_encode_pinwrite (g : GroupIx) (v : Byte) : grpField (encode (.pinwrite g v)) = BitVec.ofFin g := by
  rw [grpField, encode, BitVec.extractLsb'_append_eq_of_le (by decide), BitVec.extractLsb'_append_eq_of_le (by decide)]
  exact BitVec.extractLsb'_append_eq_right

theorem valField_encode_pinwrite (g : GroupIx) (v : Byte) : valField (encode (.pinwrite g v)) = v :=
  BitVec.extractLsb'_append_eq_right

/-- The operand of SETGIE is the lowest bit of its word (30_encoding.md R77). -/
theorem getLsbD_zero_encode_setgie (e : Bool) : (encode (.setgie e)).getLsbD 0 = e := by cases e <;> rfl

@[simp] theorem ofBits_toBits (mode : ModeField) : ModeField.ofBits mode.toBits = mode := by cases mode <;> rfl

@[simp] theorem groupOfBits_ofFin (g : GroupIx) : groupOfBits (BitVec.ofFin g) = g := rfl

/-- Decoding an instruction's word gives the instruction back: the opcode selects the arm, the must-be-zero bits are those
of the row, and each operand is in its own field (30_encoding.md R78). -/
theorem decode_encode (i : Instr) : decode (encode i) = .command i := by
  unfold decode
  rw [toNat_opField_encode]
  cases i with
  | attach pin mode =>
    refine Eq.trans (checkZeros_encode (.attach pin mode) _) ?_
    rw [pinField_encode rfl, modeField_encode_attach, ofBits_toBits]
  | detach pin =>
    refine Eq.trans (checkZeros_encode (.detach pin) _) ?_
    rw [pinField_encode rfl]
  | enable pin =>
    refine Eq.trans (checkZeros_encode (.enable pin) _) ?_
    rw [pinField_encode rfl]
  | disable pin =>
    refine Eq.trans (checkZeros_encode (.disable pin) _) ?_
    rw [pinField_encode rfl]
  | csenter => exact checkZeros_encode .csenter _
  | csexit => exact checkZeros_encode .csexit _
  | setgie e =>
    refine Eq.trans (checkZeros_encode (.setgie e) _) ?_
    rw [getLsbD_zero_encode_setgie]
  | pinwrite g v =>
    refine Eq.trans (checkZeros_encode (.pinwrite g v) _) ?_
    rw [grpField_encode_pinwrite, valField_encode_pinwrite, groupOfBits_ofFin]
  | cbret => exact checkZeros_encode .cbret _

/-! ### The four bytes of a word (20_memory.md R53) -/

/-- Putting a word's bytes together again gives the word. -/
theorem wordOfBytes_extract (w : CmdWord) :
    wordOfBytes (w.extractLsb' 0 8) (w.extractLsb' 8 8) (w.extractLsb' 16 8) (w.extractLsb' 24 8) = w := by
  apply BitVec.eq_of_getLsbD_eq
  intro i hi
  simp only [wordOfBytes, BitVec.getLsbD_append, BitVec.getLsbD_extractLsb']
  interval_cases i <;> simp

/-- The decoder reads a word's four bytes as that word and hands back what follows (30_encoding.md R83). -/
theorem decodeBytes_bytesOfWord (w : CmdWord) (rest : List Byte) :
    decodeBytes (bytesOfWord w ++ rest) = .word (decode w) rest :=
  congrArg (fun v => ByteDecode.word (decode v) rest) (wordOfBytes_extract w)

/-- Bits put above `n` others weigh `2 ^ n` times as much. -/
theorem toNat_append_eq_add {m n : Nat} (hi : BitVec m) (lo : BitVec n) :
    (hi ++ lo).toNat = 2 ^ n * hi.toNat + lo.toNat := by
  rw [BitVec.toNat_append, ← Nat.shiftLeft_add_eq_or_of_lt lo.isLt, Nat.shiftLeft_eq, Nat.mul_comm]

/-- The word of four bytes by their weights, the first byte lowest (20_memory.md R53). -/
theorem wordOfBytes_eq_ofNat (b0 b1 b2 b3 : Byte) :
    wordOfBytes b0 b1 b2 b3 =
      BitVec.ofNat 32 (b0.toNat + 256 * b1.toNat + 65536 * b2.toNat + 16777216 * b3.toNat) := by
  apply BitVec.eq_of_toNat_eq
  simp only [wordOfBytes, toNat_append_eq_add, BitVec.toNat_ofNat]
  omega

/-- Settles O8: the bytes of an instruction's word make up that word, which decodes to the instruction; four bytes make up
the word of their weights. -/
theorem bytesDecodeLittleEndian : Obligations.BytesDecodeLittleEndian := by
  refine ⟨fun i rest => ?_, fun b0 b1 b2 b3 rest => ?_⟩
  · rw [encodeBytes, decodeBytes_bytesOfWord, decode_encode]
  · rw [decodeBytes, wordOfBytes_eq_ofNat]

/-! ### The register addresses of a platform (20_memory.md R51) -/

@[simp] theorem mem_groupList {c : Platform} {g : GroupIx} : g ∈ c.groupList ↔ c.hasGroup g = true := by
  have listed : g ∈ ([0, 1, 2, 3] : List GroupIx) := by revert g; decide
  simp only [Platform.groupList, List.mem_filter, listed, true_and]

/-- Two existing groups with one MASK address are the same group (20_memory.md R51). -/
theorem addrMask_inj {c : Platform} {g h : GroupIx} (ok : c.addressesOk = true) (hg : c.hasGroup g = true)
    (hh : c.hasGroup h = true) (same : c.addrMask.get g = c.addrMask.get h) : g = h := by
  obtain ⟨distinct, -⟩ := Bool.and_eq_true_iff.mp ok
  exact List.inj_on_of_nodup_map (of_decide_eq_true distinct) (mem_groupList.mpr hg) (mem_groupList.mpr hh) same

/-- No MASK address of an existing group is a GRPEN address (20_memory.md R51). -/
theorem addrMask_ne_addrGrpen {c : Platform} {g h : GroupIx} (ok : c.addressesOk = true) (hg : c.hasGroup g = true)
    (hh : c.hasGroup h = true) : c.addrMask.get g ≠ c.addrGrpen.get h := by
  obtain ⟨-, apart⟩ := Bool.and_eq_true_iff.mp ok
  have apartFromAll := List.all_eq_true.mp apart g (mem_groupList.mpr hg)
  exact of_decide_eq_true (List.all_eq_true.mp apartFromAll h (mem_groupList.mpr hh))

namespace Machine

theorem regAt_of_addrGrpen {c : Platform} {g : GroupIx} (hg : c.hasGroup g = true) :
    regAt c (c.addrGrpen.get g) = some .grpen :=
  if_pos (List.any_eq_true.mpr ⟨g, mem_groupList.mpr hg, beq_self_eq_true (c.addrGrpen.get g)⟩)

/-- An address that no existing group has for GRPEN is looked up among the MASK addresses alone. -/
theorem regAt_of_ne_addrGrpen {c : Platform} {a : Nat} (h : ∀ g, c.hasGroup g = true → c.addrGrpen.get g ≠ a) :
    regAt c a = (c.groupList.find? (fun g => c.addrMask.get g == a)).map Reg.mask := by
  refine if_neg fun found => ?_
  obtain ⟨g, listed, same⟩ := List.any_eq_true.mp found
  exact h g (mem_groupList.mp listed) (eq_of_beq same)

theorem find_addrMask {c : Platform} {g : GroupIx} (ok : c.addressesOk = true) (hg : c.hasGroup g = true) :
    c.groupList.find? (fun h => c.addrMask.get h == c.addrMask.get g) = some g := by
  cases found : c.groupList.find? (fun h => c.addrMask.get h == c.addrMask.get g) with
  | none => exact absurd (beq_self_eq_true _) (List.find?_eq_none.mp found g (mem_groupList.mpr hg))
  | some h =>
    have same := beq_iff_eq.mp (List.find?_some (p := (c.addrMask.get · == c.addrMask.get g)) found)
    have present := mem_groupList.mp (List.mem_of_find?_eq_some found)
    rw [addrMask_inj ok present hg same]

/-- Settles O57: a MASK address is no GRPEN address, and the search among the MASK addresses finds its own group. -/
theorem registerAddressesAreUnambiguous : Obligations.RegisterAddressesAreUnambiguous := by
  intro c g ok hg
  refine ⟨?_, regAt_of_addrGrpen hg⟩
  rw [regAt_of_ne_addrGrpen fun h hh => (addrMask_ne_addrGrpen ok hg hh).symm, find_addrMask ok hg, Option.map_some]

end Machine

end Sys2Proof
end

section
/-! PROOFS, the encoding of commands (30_encoding.md): the opcode table, the round trip of decoder and encoder, and the
refusals of reserved words and wrong issuers. -/

namespace Sys2Proof

/-! ### A command's opcode and must-be-zero bits (30_encoding.md R77, R81) -/

/-- The bits below OP that must be zero in the word of the instruction (30_encoding.md R81). -/
def Instr.zeros (i : Instr) : CmdWord := i.row.mask &&& 0x0FFFFFFF#32

/-- The instruction with its operands replaced by those in the fields of `w` (30_encoding.md R71, R74, R75). -/
def Instr.withOperandsOf (w : CmdWord) : Instr → Instr
  | .attach _ _ => .attach (pinField w) (ModeField.ofBits (modeField w))
  | .detach _ => .detach (pinField w)
  | .enable _ => .enable (pinField w)
  | .disable _ => .disable (pinField w)
  | .csenter => .csenter
  | .csexit => .csexit
  | .setgie _ => .setgie (w.getLsbD 0)
  | .pinwrite _ _ => .pinwrite (groupOfBits (grpField w)) (valField w)
  | .cbret => .cbret

@[simp] theorem row_withOperandsOf (w : CmdWord) (i : Instr) : (i.withOperandsOf w).row = i.row := by cases i <;> rfl

@[simp] theorem withOperandsOf_idem (w : CmdWord) (i : Instr) :
    (i.withOperandsOf w).withOperandsOf w = i.withOperandsOf w := by cases i <;> rfl

/-- A defined opcode selects its command's arm of the decoder: the must-be-zero test, and the operands from the fields. -/
theorem decode_of_opcode {i : Instr} {w : CmdWord} (op : (opField w).toNat = i.opcode) :
    decode w = checkZeros w i.zeros (i.withOperandsOf w) := by
  unfold decode
  rw [op, Instr.zeros]
  cases i <;> (rw [Instr.row]; rfl)

theorem toNat_opField_row (i : Instr) : (opField i.row.pattern).toNat = i.opcode := by
  cases i <;> simp [Instr.row, opField, Instr.opcode]

theorem opField_row_mask (i : Instr) : opField i.row.mask = 0xF#4 := by cases i <;> simp [Instr.row, opField]

/-- The opcodes that no command has (30_encoding.md R80). -/
theorem decode_of_undefined_opcode {w : CmdWord} (op : (opField w).toNat = 0 ∨ 0xA ≤ (opField w).toNat) :
    decode w = .reserved .rsvOpcode := by
  unfold decode
  generalize (opField w).toNat = n at op
  split
  case h_10 => rfl
  all_goals omega

theorem exists_opcode {n : Nat} (low : n ≠ 0) (high : n < 0xA) : ∃ i : Instr, i.opcode = n := by
  match n with
  | 1 => exact ⟨.attach 0 .mode0, rfl⟩
  | 2 => exact ⟨.detach 0, rfl⟩
  | 3 => exact ⟨.enable 0, rfl⟩
  | 4 => exact ⟨.disable 0, rfl⟩
  | 5 => exact ⟨.csenter, rfl⟩
  | 6 => exact ⟨.csexit, rfl⟩
  | 7 => exact ⟨.setgie false, rfl⟩
  | 8 => exact ⟨.pinwrite 0 0, rfl⟩
  | 9 => exact ⟨.cbret, rfl⟩

/-! ### Words by their fields -/

/-- Words that agree on a run of bits have the same bit at each of its places. -/
theorem getLsbD_eq_of_extractLsb'_eq {w v : CmdWord} {lo n k : Nat} (same : w.extractLsb' lo n = v.extractLsb' lo n)
    (above : lo ≤ k) (below : k < lo + n) : w.getLsbD k = v.getLsbD k := by
  have bit := congrArg (·.getLsbD (k - lo)) same
  have inside : k - lo < n := by omega
  simpa only [BitVec.getLsbD_extractLsb', inside, Nat.add_sub_cancel' above, decide_true, Bool.true_and] using bit

/-- A mask splits over OP and the bits below it. -/
theorem and_opcode_or_below (m : CmdWord) : (m &&& 0xF0000000#32) ||| (m &&& 0x0FFFFFFF#32) = m := by
  rw [← BitVec.and_or_distrib_left]
  exact BitVec.and_allOnes

/-- Words with one opcode agree under the mask of OP. -/
theorem and_opcode_congr {w v : CmdWord} (same : opField w = opField v) : w &&& 0xF0000000#32 = v &&& 0xF0000000#32 := by
  have covered : ∀ k < 32, (0xF0000000#32).getLsbD k = decide (28 ≤ k) := by decide
  apply BitVec.eq_of_getLsbD_eq
  intro k hk
  rw [BitVec.getLsbD_and, BitVec.getLsbD_and, covered k hk]
  by_cases high : 28 ≤ k
  · rw [getLsbD_eq_of_extractLsb'_eq same high hk]
  · simp [high]

/-- A word is well-formed for an instruction's row exactly when it has the instruction's opcode and passes the test of its
must-be-zero bits. -/
theorem row_admits_iff {i : Instr} {w : CmdWord} :
    i.row.admits w = true ↔ (opField w).toNat = i.opcode ∧ w &&& i.zeros = 0#32 := by
  have pattern_below : i.row.pattern &&& 0x0FFFFFFF#32 = 0#32 := by cases i <;> simp [Instr.row]
  constructor
  · intro admitted
    rw [opField_of_admits admitted (opField_row_mask i), toNat_opField_row, Instr.zeros, ← BitVec.and_assoc,
      and_mask_of_admits admitted]
    exact ⟨rfl, pattern_below⟩
  · rintro ⟨op, clear⟩
    have sameOp : opField w = opField i.row.pattern := BitVec.eq_of_toNat_eq (op.trans (toNat_opField_row i).symm)
    have mask_op : i.row.mask &&& 0xF0000000#32 = 0xF0000000#32 := by cases i <;> (rw [Instr.row]; rfl)
    refine beq_iff_eq.mpr ?_
    calc w &&& i.row.mask
        = (w &&& 0xF0000000#32) ||| (w &&& i.zeros) := by
          rw [Instr.zeros, ← BitVec.and_or_distrib_left, ← mask_op, and_opcode_or_below]
      _ = (i.row.pattern &&& 0xF0000000#32) ||| (i.row.pattern &&& 0x0FFFFFFF#32) := by
          rw [clear, pattern_below, and_opcode_congr sameOp]
      _ = i.row.pattern := and_opcode_or_below _

/-- What a word decodes to, said once: the command whose row admits the word, with the operands in the word's fields
(30_encoding.md R77, R78). -/
theorem decode_eq_command_iff {w : CmdWord} {i : Instr} :
    decode w = .command i ↔ i.row.admits w = true ∧ i.withOperandsOf w = i := by
  constructor
  · intro decoded
    have defined : ¬((opField w).toNat = 0 ∨ 0xA ≤ (opField w).toNat) := fun undefined => by
      rw [decode_of_undefined_opcode undefined] at decoded
      cases decoded
    obtain ⟨j, op⟩ := exists_opcode (n := (opField w).toNat) (by omega) (by omega)
    rw [decode_of_opcode op.symm, checkZeros_eq_command] at decoded
    obtain ⟨clear, rfl⟩ := decoded
    rw [row_withOperandsOf, withOperandsOf_idem]
    exact ⟨row_admits_iff.mpr ⟨op.symm, clear⟩, rfl⟩
  · rintro ⟨admitted, operands⟩
    obtain ⟨op, clear⟩ := row_admits_iff.mp admitted
    rw [decode_of_opcode op, operands]
    exact checkZeros_eq_command.mpr ⟨clear, rfl⟩

/-! ### The round trip of decoder and encoder (30_encoding.md R78) -/

/-- Settles O1, by the round trip that the byte form of a command rests on too. -/
theorem decodeOfEncode : Obligations.DecodeOfEncode := decode_encode

theorem toBits_ofBits (m : BitVec 2) : (ModeField.ofBits m).toBits = m := by revert m; decide

/-- The bits that an instruction's row leaves free are those of its operands: words with the same operands agree on them. -/
theorem getLsbD_eq_of_operands_eq {i : Instr} {w v : CmdWord} (same : i.withOperandsOf w = i.withOperandsOf v) {k : Nat}
    (hk : k < 32) (free : i.row.mask.getLsbD k = false) : w.getLsbD k = v.getLsbD k := by
  cases i with
  | attach pin mode =>
    have free_attach : ∀ k < 32, (0xF300FFFF#32).getLsbD k = false → (16 ≤ k ∧ k < 16 + 8) ∨ (26 ≤ k ∧ k < 26 + 2) := by
      decide
    obtain ⟨samePin, sameMode⟩ := Instr.attach.inj same
    rcases free_attach k hk free with ⟨lo, hi⟩ | ⟨lo, hi⟩
    · exact getLsbD_eq_of_extractLsb'_eq samePin lo hi
    · have sameBits := congrArg ModeField.toBits sameMode
      rw [toBits_ofBits, toBits_ofBits] at sameBits
      exact getLsbD_eq_of_extractLsb'_eq sameBits lo hi
  | detach pin | enable pin | disable pin =>
    have free_pin : ∀ k < 32, (0xFF00FFFF#32).getLsbD k = false → 16 ≤ k ∧ k < 16 + 8 := by decide
    obtain ⟨lo, hi⟩ := free_pin k hk free
    exact getLsbD_eq_of_extractLsb'_eq (Option.some.inj (congrArg Machine.pinOperand same)) lo hi
  | setgie e =>
    have free_setgie : ∀ k < 32, (0xFFFFFFFE#32).getLsbD k = false → k = 0 := by decide
    obtain rfl := free_setgie k hk free
    exact Instr.setgie.inj same
  | pinwrite g v =>
    have free_pinwrite : ∀ k < 32, (0xFCFFFF00#32).getLsbD k = false → (24 ≤ k ∧ k < 24 + 2) ∨ (0 ≤ k ∧ k < 0 + 8) := by
      decide
    obtain ⟨sameGroup, sameValue⟩ := Instr.pinwrite.inj same
    rcases free_pinwrite k hk free with ⟨lo, hi⟩ | ⟨lo, hi⟩
    · exact getLsbD_eq_of_extractLsb'_eq (BitVec.toFin_inj.mp sameGroup) lo hi
    · exact getLsbD_eq_of_extractLsb'_eq sameValue lo hi
  | csenter | csexit | cbret =>
    have none_free : ∀ k < 32, (0xFFFFFFFF#32).getLsbD k = true := by decide
    exact absurd free (by rw [Instr.row, none_free k hk]; decide)

/-- Two words of one instruction are equal: the row's mask and the operands together cover all 32 bits. -/
theorem decode_inj {w v : CmdWord} {i : Instr} (hw : decode w = .command i) (hv : decode v = .command i) : w = v := by
  obtain ⟨admits_w, operands_w⟩ := decode_eq_command_iff.mp hw
  obtain ⟨admits_v, operands_v⟩ := decode_eq_command_iff.mp hv
  have masked : w &&& i.row.mask = v &&& i.row.mask :=
    (and_mask_of_admits admits_w).trans (and_mask_of_admits admits_v).symm
  apply BitVec.eq_of_getLsbD_eq
  intro k hk
  cases fixed : i.row.mask.getLsbD k with
  | false => exact getLsbD_eq_of_operands_eq (operands_w.trans operands_v.symm) hk fixed
  | true => simpa only [BitVec.getLsbD_and, fixed, Bool.and_true] using congrArg (·.getLsbD k) masked

/-- Settles O2: the word of the instruction decodes to it too, and an instruction has only one word. -/
theorem encodeOfDecode : Obligations.EncodeOfDecode := fun _ i decoded => decode_inj (decode_encode i) decoded

/-- Settles O9: the words are those that the encoder gives. -/
theorem writtenOutWordsDecode : Obligations.WrittenOutWordsDecode :=
  ⟨decode_encode (.attach 7 .rising), decode_encode (.detach 3), decode_encode (.setgie true),
    decode_encode (.pinwrite 1 0xFE), decode_encode .cbret⟩

/-! ### The opcode table (30_encoding.md R77) -/

/-- The row at position `n` is the row of the commands with opcode `n + 1`. -/
theorem exists_instr_of_opcodeTable {n : Nat} {r : OpcodeRow} (at_n : opcodeTable[n]? = some r) :
    ∃ i : Instr, i.row = r ∧ i.opcode = n + 1 := by
  match n with
  | 0 => exact ⟨.attach 0 .mode0, Option.some.inj at_n, rfl⟩
  | 1 => exact ⟨.detach 0, Option.some.inj at_n, rfl⟩
  | 2 => exact ⟨.enable 0, Option.some.inj at_n, rfl⟩
  | 3 => exact ⟨.disable 0, Option.some.inj at_n, rfl⟩
  | 4 => exact ⟨.csenter, Option.some.inj at_n, rfl⟩
  | 5 => exact ⟨.csexit, Option.some.inj at_n, rfl⟩
  | 6 => exact ⟨.setgie false, Option.some.inj at_n, rfl⟩
  | 7 => exact ⟨.pinwrite 0 0, Option.some.inj at_n, rfl⟩
  | 8 => exact ⟨.cbret, Option.some.inj at_n, rfl⟩

theorem opcodeTable_at_opcode (i : Instr) : opcodeTable[i.opcode - 1]? = some i.row := by cases i <;> rfl

theorem mem_opcodeTable {r : OpcodeRow} : r ∈ opcodeTable ↔ ∃ i : Instr, i.row = r := by
  constructor
  · intro listed
    obtain ⟨n, at_n⟩ := List.mem_iff_getElem?.mp listed
    obtain ⟨i, own, -⟩ := exists_instr_of_opcodeTable at_n
    exact ⟨i, own⟩
  · rintro ⟨i, rfl⟩
    exact List.mem_of_getElem? (opcodeTable_at_opcode i)

/-- Settles O4: a command's row is listed; and a listed row that admits a word gives a command with the operands in the
word's fields. -/
theorem decodeFollowsTheOpcodeTable : Obligations.DecodeFollowsTheOpcodeTable := by
  intro w
  refine ⟨⟨?_, ?_⟩, fun i decoded => (decode_eq_command_iff.mp decoded).1⟩
  · rintro ⟨i, decoded⟩
    exact ⟨i.row, mem_opcodeTable.mpr ⟨i, rfl⟩, (decode_eq_command_iff.mp decoded).1⟩
  · rintro ⟨r, listed, admitted⟩
    obtain ⟨i, rfl⟩ := mem_opcodeTable.mp listed
    refine ⟨i.withOperandsOf w, decode_eq_command_iff.mpr ⟨?_, withOperandsOf_idem w i⟩⟩
    rwa [row_withOperandsOf]

/-- A row admits only words whose opcode is its position counted from 1. -/
theorem toNat_opField_of_row_admits {n : Nat} {r : OpcodeRow} {w : CmdWord} (at_n : opcodeTable[n]? = some r)
    (admitted : r.admits w = true) : (opField w).toNat = n + 1 := by
  obtain ⟨i, rfl, op⟩ := exists_instr_of_opcodeTable at_n
  exact (row_admits_iff.mp admitted).1.trans op

/-- Settles O5: both positions are the word's opcode less 1. -/
theorem opcodeRowsDoNotOverlap : Obligations.OpcodeRowsDoNotOverlap := by
  intro w a b ra rb at_a at_b admitted_a admitted_b
  have op_a := toNat_opField_of_row_admits at_a admitted_a
  have op_b := toNat_opField_of_row_admits at_b admitted_b
  omega

namespace Machine

/-! ### Reserved words are refused (30_encoding.md R80, R81) -/

/-- Issuing a reserved word leaves the command on the port and the refusal mark, the first one if one was set already
(60_exceptions.md R202). -/
theorem issue_reserved {c : Command} {k : Reserved} (reserved : decode c.word = .reserved k) (s : State) (a : Agent) :
    s.issue a c = .next { s.present a c with refused := some (s.refused.getD .reservedEncoding) } := by
  simp only [State.issue, reserved, refuse_eq, present_refused]

/-- Settles O6: such an opcode is no command's, and issuing the word is refused. -/
theorem reservedOpcodesAreRefused : Obligations.ReservedOpcodesAreRefused := by
  intro s a c op
  have reserved := decode_of_undefined_opcode op
  exact ⟨reserved, issue_reserved reserved s a⟩

/-- A word with a command's opcode that is not well-formed for the command's row has a 1 in a must-be-zero bit. -/
theorem decode_of_not_admits {i : Instr} {w : CmdWord} (op : (opField w).toNat = i.opcode)
    (rejected : i.row.admits w = false) : decode w = .reserved .rsvBits := by
  have nonzero : w &&& i.zeros ≠ 0#32 := fun clear => by
    rw [row_admits_iff.mpr ⟨op, clear⟩] at rejected
    cases rejected
  rw [decode_of_opcode op, checkZeros, if_neg nonzero]

/-- Settles O7: the opcode is that of a command with this row, whose must-be-zero test fails. -/
theorem nonZeroReservedBitsAreRefused : Obligations.NonZeroReservedBitsAreRefused := by
  intro s a c r listed sameOp rejected
  obtain ⟨i, rfl⟩ := mem_opcodeTable.mp listed
  have op : (opField c.word).toNat = i.opcode := by rw [sameOp, toNat_opField_row]
  have reserved := decode_of_not_admits op rejected
  exact ⟨reserved, issue_reserved reserved s a⟩

/-! ### Wrong issuers and absent groups are refused (30_encoding.md R82) -/

theorem exec_of_not_mayIssue {s : State} {i : Instr} (unlawful : mayIssue s.issuer i = false) :
    exec i s = .next { s with refused := some (s.refused.getD .wrongAgent) } := by
  obtain ⟨t, executed⟩ := exec_next i s
  rcases exec_cases executed with ⟨-, rfl⟩ | ⟨lawful, -⟩
  · rw [executed, refuse_eq]
  · rw [lawful] at unlawful
    cases unlawful

theorem mayIssue_sequencer (i : Instr) : mayIssue .sequencer i = false := by cases i <;> rfl

theorem mayIssue_pinEnvironment {i : Instr} (other : ∀ g v, i ≠ .pinwrite g v) : mayIssue .pinEnvironment i = false := by
  cases i with
  | pinwrite g v => exact absurd rfl (other g v)
  | _ => rfl

theorem exec_pinwrite_absent {s : State} {g : GroupIx} (v : Byte) (issuer : s.issuer = .pinEnvironment)
    (absent : s.cfg.hasGroup g = false) :
    exec (.pinwrite g v) s = .next { s with refused := some (s.refused.getD .noSuchGroup) } := by
  simp [exec, execPinwrite, State.issued, mayIssue, issuer, absent, refuse_eq]

/-- Settles O18: in each of the listed cases R73 does not list the issuer for the command; a group from N_GROUPS up does
not exist. -/
theorem wrongIssuersAreRefused : Obligations.WrongIssuersAreRefused := by
  intro s i
  refine ⟨fun wrong => exec_of_not_mayIssue ?_, ?_⟩
  · rcases wrong with issuer | ⟨issuer, rfl | ⟨g, v, rfl⟩⟩ | ⟨issuer, ⟨e, rfl⟩ | ⟨g, v, rfl⟩⟩ | ⟨issuer, other⟩
      <;> rw [issuer]
    case inl => exact mayIssue_sequencer i
    case inr.inr.inr => exact mayIssue_pinEnvironment other
    all_goals rfl
  · rintro g v rfl issuer absent
    exact exec_pinwrite_absent v issuer (decide_eq_false (Nat.not_lt.mpr absent))

end Machine

end Sys2Proof
end

section
/-! PROOFS, the Registration Protocol (40_registration.md): the words of its commands, what each command does and leaves
alone, and the commands as critical sections of their own. -/

namespace Sys2Proof

/-! ### The words of the registration commands (R102, R110, R117, R123) -/

/-- An instruction has exactly one word (30_encoding.md R78). -/
theorem decode_eq_command_iff_eq_encode {w : CmdWord} {i : Instr} : decode w = .command i ↔ w = encode i := by
  constructor
  · intro decoded
    exact decode_inj decoded (decode_encode i)
  · rintro rfl
    exact decode_encode i

/-- A word of one high byte, the PIN field and 16 low zeros, as the number that its fields make at their bit places. -/
theorem highByte_pin_word (hi : Byte) (pin : PinId) :
    hi ++ pin ++ 0#16 = BitVec.ofNat 32 (0x1000000 * hi.toNat + 0x10000 * pin.toNat) := by
  apply BitVec.eq_of_toNat_eq
  have hi_lt : hi.toNat < 256 := hi.isLt
  have pin_lt : pin.toNat < 256 := pin.isLt
  rw [toNat_append_eq_add, toNat_append_eq_add, BitVec.toNat_ofNat, BitVec.toNat_ofNat]
  omega

/-- Settles O3: each command decodes from its own word alone, and OP and MODE make up the high byte of that word. -/
theorem registrationCommandsHaveTheirWords : Obligations.RegistrationCommandsHaveTheirWords := by
  intro w pin mode
  simp only [decode_eq_command_iff_eq_encode]
  refine ⟨?_, ?_, ?_, ?_⟩
  · have word := highByte_pin_word (0x1#4 ++ mode.toBits ++ 0#2) pin
    cases mode <;> exact (congrArg (w = ·) word).to_iff
  · exact (congrArg (w = ·) (highByte_pin_word 0x20#8 pin)).to_iff
  · exact (congrArg (w = ·) (highByte_pin_word 0x30#8 pin)).to_iff
  · exact (congrArg (w = ·) (highByte_pin_word 0x40#8 pin)).to_iff

namespace Machine

/-! ### A command at its pin's place (R100) -/

theorem atPin_unresolved {s : State} {pin : PinId} (unresolved : s.locate pin = none) (body : GroupIx → BitIx → State) :
    s.atPin pin body = s := by
  simp only [State.atPin, unresolved]

theorem atPin_resolved {s : State} {pin : PinId} {g : GroupIx} {b : BitIx} (place : s.locate pin = some (g, b))
    (body : GroupIx → BitIx → State) : s.atPin pin body = body g b := by
  simp only [State.atPin, place]

/-! ### The four bodies as registration commands -/

theorem registered_attachAt {s : State} {fn : FnRef} (port : s.portFn = some fn) (mode : ModeField) (g : GroupIx)
    (b : BitIx) : s.Registered (s.attachAt mode g b) g b := .inl ⟨fn, mode, port, rfl⟩

theorem registered_detachAt (s : State) (g : GroupIx) (b : BitIx) : s.Registered (s.detachAt g b) g b := .inr (.inl rfl)

theorem registered_enableAt {s : State} {g : GroupIx} {b : BitIx} {c : Callback} (populated : s.slotAt g b = some c) :
    s.Registered (s.enableAt g b) g b := .inr (.inr (.inl ⟨c, populated, rfl⟩))

theorem registered_disablePin (s : State) (g : GroupIx) (b : BitIx) : s.Registered (s.disablePin g b) g b :=
  .inr (.inr (.inr rfl))

/-- The body of ATTACH does nothing or registers. -/
theorem attachAt_cases (s : State) (mode : ModeField) (g : GroupIx) (b : BitIx) :
    s.attachAt mode g b = s ∨ s.Registered (s.attachAt mode g b) g b := by
  cases port : s.portFn with
  | none => exact .inl (attachAt_none port mode g b)
  | some fn => exact .inr (registered_attachAt port mode g b)

/-- The body of ENABLE does nothing or registers. -/
theorem enableAt_cases (s : State) (g : GroupIx) (b : BitIx) :
    s.enableAt g b = s ∨ s.Registered (s.enableAt g b) g b := by
  cases slot : s.slotAt g b with
  | none => exact .inl (enableAt_none slot)
  | some c => exact .inr (registered_enableAt slot)

/-- A body that does nothing or registers does so at the pin's place. -/
theorem atPin_registered {s : State} (pin : PinId) {body : GroupIx → BitIx → State}
    (registers : ∀ g b, body g b = s ∨ s.Registered (body g b) g b) :
    s.atPin pin body = s ∨ ∃ g b, s.locate pin = some (g, b) ∧ s.Registered (s.atPin pin body) g b := by
  rcases atPin_cases s pin body with ⟨-, same⟩ | ⟨g, b, place, atPlace⟩
  · exact .inl same
  · rw [atPlace]
    exact (registers g b).imp id fun registered => ⟨g, b, place, registered⟩

/-- A registration command of the mainline or a callback answers a next state: the same one, or what the command's body
leaves at its pin's place. -/
theorem exec_registration {s : State} {i : Instr} {pin : PinId} (program : s.byProgram)
    (operand : pinOperand i = some pin) :
    ∃ t, exec i s = .next t ∧ (t = s ∨ ∃ g b, s.locate pin = some (g, b) ∧ s.Registered t g b) := by
  cases i with
  | attach p mode =>
    obtain rfl : p = pin := Option.some.inj operand
    exact ⟨_, exec_attach_byProgram program p mode, atPin_registered p (attachAt_cases s mode)⟩
  | detach p =>
    obtain rfl : p = pin := Option.some.inj operand
    exact ⟨_, exec_detach_byProgram program p, atPin_registered p fun g b => .inr (registered_detachAt s g b)⟩
  | enable p =>
    obtain rfl : p = pin := Option.some.inj operand
    exact ⟨_, exec_enable_byProgram program p, atPin_registered p (enableAt_cases s)⟩
  | disable p =>
    obtain rfl : p = pin := Option.some.inj operand
    exact ⟨_, exec_disable_byProgram program p, atPin_registered p fun g b => .inr (registered_disablePin s g b)⟩
  | _ => cases operand

/-! ### The frame of a registration command (20_memory.md R56, R64) -/

section
variable {s t : State} {g : GroupIx} {b : BitIx} (registered : s.Registered t g b)
include registered

theorem registered_sameBit {c : BitIx} (other : c ≠ b) : s.sameBit t g c := by
  have elsewhere : b ≠ c := other.symm
  rcases registered with ⟨fn, mode, port, rfl⟩ | rfl | ⟨cb, slot, rfl⟩ | rfl
  · obtain ⟨slots, rise, fall, state, mask, -⟩ := attachAt_reads port mode g b
    simp only [State.sameBit, regRead_mask, slots, rise, fall, state, mask, elsewhere, and_false, if_false, and_self]
  · obtain ⟨slots, rise, fall, state, mask, -⟩ := detachAt_reads s g b
    simp only [State.sameBit, regRead_mask, slots, rise, fall, state, mask, elsewhere, and_false, if_false, and_self]
  · obtain ⟨slots, rise, fall, state, mask, -⟩ := enableAt_reads slot
    simp only [State.sameBit, State.slotAt, regRead_mask, slots, rise, fall, state, mask, elsewhere,
      and_false, if_false, and_self]
  · have groups : (s.disablePin g b).groups = s.groups := by rw [disablePin_frame]
    simp only [State.sameBit, slotAt_congr groups, group_congr groups, regRead_mask, bitAt_mask_disablePin,
      elsewhere, and_false, if_false, and_self]

theorem registered_pending_other {h : GroupIx} (other : g ≠ h) : t.pending h = s.pending h := by
  rcases registered with ⟨fn, mode, port, rfl⟩ | rfl | ⟨cb, slot, rfl⟩ | rfl
  · obtain ⟨-, -, -, -, -, -, -, pending, -⟩ := attachAt_reads port mode g b
    rw [pending, if_neg other]
  · obtain ⟨-, -, -, -, -, -, frame⟩ := detachAt_reads s g b
    exact pending_congr (by rw [frame]) h
  · obtain ⟨-, -, -, -, -, -, -, pending, -⟩ := enableAt_reads slot
    rw [pending, if_neg other]
  · exact pending_congr (by rw [disablePin_frame]) h

theorem registered_grpen_other {i : BitIx} (other : i ≠ enableBit g) :
    bitAt (t.regRead .grpen) i = bitAt (s.regRead .grpen) i := by
  rcases registered with ⟨fn, mode, port, rfl⟩ | rfl | ⟨cb, slot, rfl⟩ | rfl
  · obtain ⟨-, -, -, -, -, grpen, -⟩ := attachAt_reads port mode g b
    rw [grpen, if_neg other.symm]
  · exact bitAt_grpen_disablePin_of_ne ((s.putSlot g b none).putEdges g b false false) g b i other
  · obtain ⟨-, -, -, -, -, grpen, -⟩ := enableAt_reads slot
    rw [grpen, if_neg other.symm]
  · exact bitAt_grpen_disablePin_of_ne s g b i other

/-- A registration command writes nothing but its pin's bit, its group's enable bit and request, and the count of
draws. -/
theorem registered_registrationFrame : s.registrationFrame t g b := by
  refine ⟨fun h other => ?_, fun c => registered_sameBit registered, fun i => registered_grpen_other registered,
    registered_frame registered⟩
  obtain ⟨group, mask, enabled⟩ := registered_other other.symm registered
  exact ⟨group, mask, enabled, registered_pending_other registered other.symm⟩

theorem registered_byProgram (program : s.byProgram) : t.byProgram := by
  rw [registered_frame registered]
  exact program

theorem registered_locate (pin : PinId) : t.locate pin = s.locate pin :=
  congrArg (locateOn · pin) (registered_cfg registered)

end

/-! ### ATTACH, DETACH, ENABLE and DISABLE: result and frame -/

theorem wantsRise_eq (mode : ModeField) : wantsRise mode = decide (mode = .rising ∨ mode = .change) := by
  cases mode <;> rfl

theorem wantsFall_eq (mode : ModeField) : wantsFall mode = decide (mode = .falling ∨ mode = .change) := by
  cases mode <;> rfl

/-- The pin's own group stays enabled exactly where a mask bit is left (R112, R124). -/
theorem groupEnabled_disablePin_own (s : State) (g : GroupIx) (b : BitIx) :
    (s.disablePin g b).groupEnabled g = (s.groupEnabled g && decide ((s.disablePin g b).mask.get g ≠ 0x00#8)) := by
  rw [groupEnabled_disablePin]
  by_cases noneLeft : (s.disablePin g b).mask.get g = 0x00#8 <;> simp [noneLeft]

/-- Settles O14: an unresolved pin has no place and a null callback no body (R100, R104); else the body is read at
the pin's own bit. -/
theorem attachSemantics : Obligations.AttachSemantics := by
  intro s pin mode program
  rw [exec_attach_byProgram program]
  refine ⟨fun unresolved => by rw [atPin_unresolved unresolved], fun port => ?_, fun g b fn place port => ?_⟩
  · rcases atPin_cases s pin (s.attachAt mode) with ⟨-, same⟩ | ⟨g, b, -, body⟩
    · rw [same]
    · rw [body, attachAt_none port]
  · obtain ⟨slot, rise, fall, state, mask, -, enabled, pending, frame⟩ := attachAt_reads port mode g b
    have present := hasGroup_of_locate place
    refine ⟨s.attachAt mode g b, by rw [atPin_resolved place], ?_, ?_, ?_, ?_, ?_, ?_, ?_, ?_,
      registered_registrationFrame (registered_attachAt port mode g b)⟩
    · rw [slot, if_pos ⟨rfl, rfl⟩]
    · rw [rise, if_pos ⟨rfl, rfl⟩, wantsRise_eq]
    · rw [fall, if_pos ⟨rfl, rfl⟩, wantsFall_eq]
    · rw [regRead_mask, mask, if_pos ⟨rfl, rfl⟩]
    · rw [enabled, if_pos rfl, present]
    · rw [state, if_pos ⟨rfl, rfl⟩, regRead_live]
    · rw [pending, if_pos rfl]
    · rw [frame]

/-- Settles O15: the body is read at the pin's own bit; the mask register that decides over the group-enable bit is
the one after the write (R112). -/
theorem detachSemantics : Obligations.DetachSemantics := by
  intro s pin program
  rw [exec_detach_byProgram program]
  refine ⟨fun unresolved => by rw [atPin_unresolved unresolved], fun g b place => ?_⟩
  obtain ⟨slot, rise, fall, state, mask, -, frame⟩ := detachAt_reads s g b
  refine ⟨s.detachAt g b, by rw [atPin_resolved place], ?_, ?_, ?_, ?_, ?_, state g, by rw [frame], by rw [frame],
    registered_registrationFrame (registered_detachAt s g b)⟩
  · rw [slot, if_pos ⟨rfl, rfl⟩]
  · rw [rise, if_pos ⟨rfl, rfl⟩]
  · rw [fall, if_pos ⟨rfl, rfl⟩]
  · rw [regRead_mask, mask, if_pos ⟨rfl, rfl⟩]
  · exact groupEnabled_disablePin_own ((s.putSlot g b none).putEdges g b false false) g b

/-- Settles O16: an unresolved pin has no place and an empty slot no body (R100, R119); else the body is read at the
pin's own bit. -/
theorem enableSemantics : Obligations.EnableSemantics := by
  intro s pin program
  rw [exec_enable_byProgram program]
  refine ⟨fun unresolved => by rw [atPin_unresolved unresolved],
    fun g b place empty => by rw [atPin_resolved place, enableAt_none empty], fun g b c place populated => ?_⟩
  obtain ⟨slot, rise, fall, state, mask, -, enabled, pending, frame⟩ := enableAt_reads populated
  have present := hasGroup_of_locate place
  refine ⟨s.enableAt g b, by rw [atPin_resolved place], ?_, ?_, ?_, ?_, ?_, slot g, rise g, fall g,
    registered_registrationFrame (registered_enableAt populated)⟩
  · rw [regRead_mask, mask, if_pos ⟨rfl, rfl⟩]
  · rw [enabled, if_pos rfl, present]
  · rw [state, if_pos ⟨rfl, rfl⟩, regRead_live]
  · rw [pending, if_pos rfl]
  · rw [frame]

/-- Settles O17: DISABLE writes MASK and GRPEN alone, and the mask register that decides over the group-enable bit
is the one after the write. -/
theorem disableSemantics : Obligations.DisableSemantics := by
  intro s pin program
  rw [exec_disable_byProgram program]
  refine ⟨fun unresolved => by rw [atPin_unresolved unresolved], fun g b place => ?_⟩
  have frame := disablePin_frame s g b
  refine ⟨s.disablePin g b, by rw [atPin_resolved place], ?_, ?_, by rw [frame], by rw [frame], by rw [frame],
    registered_registrationFrame (registered_disablePin s g b)⟩
  · rw [regRead_mask, bitAt_mask_disablePin, if_pos ⟨rfl, rfl⟩]
  · exact groupEnabled_disablePin_own s g b

/-! ### Commands that store what is there already (R114, R126) -/

theorem putSlot_eq_self {s : State} {g : GroupIx} {b : BitIx} {c : Option Callback} (holds : s.slotAt g b = c) :
    s.putSlot g b c = s := by
  have sameSlots : (s.group g).slot.set b c = (s.group g).slot := holds ▸ set_get_byBit (s.group g).slot b
  rw [State.putSlot, sameSlots, setGroup_group]

theorem putEdges_eq_self {s : State} {g : GroupIx} {b : BitIx} {r f : Bool} (rise : bitAt (s.group g).rise b = r)
    (fall : bitAt (s.group g).fall b = f) : s.putEdges g b r f = s := by
  rw [State.putEdges, setBit_eq_self rise, setBit_eq_self fall, setGroup_group]

theorem putMaskBit_eq_self {s : State} {g : GroupIx} {b : BitIx} {x : Bool} (holds : bitAt (s.mask.get g) b = x) :
    s.putMaskBit g b x = s := by
  rw [State.putMaskBit, regRead_mask, setBit_eq_self holds, State.regWrite, set_get_byGroup]

theorem putGroupEnable_eq_self {s : State} {g : GroupIx} {x : Bool} (reserved : s.regRead .grpen = s.grpen)
    (holds : s.groupEnabled g = x) : s.putGroupEnable g x = s := by
  have implemented : s.grpen &&& grpenImplemented s.cfg = s.grpen := reserved
  rw [State.putGroupEnable, setBit_eq_self holds, reserved, State.regWrite, implemented]

/-- Disabling a disabled pin changes nothing, since its group is enabled just when one of its pins is
(10_state.md R39). -/
theorem disablePin_eq_self {s : State} {g : GroupIx} {b : BitIx} (inv : s.RegistrationInv)
    (disabled : bitAt (s.mask.get g) b = false) : s.disablePin g b = s := by
  rw [State.disablePin, putMaskBit_eq_self disabled]
  split
  · rename_i noneLeft
    have groupOff : s.groupEnabled g = false :=
      Bool.eq_false_of_not_eq_true fun on => (inv.enabledIffMasked g).mp on noneLeft
    exact putGroupEnable_eq_self inv.grpenReserved groupOff
  · rfl

/-- The mask bit of an empty slot is clear (10_state.md R37). -/
theorem mask_clear_of_empty {s : State} {g : GroupIx} {b : BitIx} (inv : s.RegistrationInv)
    (empty : s.slotAt g b = none) : bitAt (s.mask.get g) b = false :=
  Bool.eq_false_of_not_eq_true fun masked => inv.maskedHasSlot g b masked empty

theorem detachAt_eq_self {s : State} {g : GroupIx} {b : BitIx} (inv : s.RegistrationInv) (empty : s.slotAt g b = none) :
    s.detachAt g b = s := by
  obtain ⟨rise, fall⟩ := inv.emptyHasNoEdge g b empty
  rw [State.detachAt, putSlot_eq_self empty, putEdges_eq_self rise fall,
    disablePin_eq_self inv (mask_clear_of_empty inv empty)]

/-- Settles O19: an empty slot has no edge and no mask bit, so every write of DETACH stores what is there. -/
theorem detachOfAnEmptySlotChangesNothing : Obligations.DetachOfAnEmptySlotChangesNothing := by
  intro s pin g b program inv place empty
  rw [exec_detach_byProgram program, atPin_resolved place, detachAt_eq_self inv empty]

/-- Settles O20: the first DETACH keeps the invariant and leaves the slot empty. -/
theorem detachTwiceIsDetachOnce : Obligations.DetachTwiceIsDetachOnce := by
  intro s t pin program inv executed
  rcases atPin_cases s pin s.detachAt with ⟨-, same⟩ | ⟨g, b, place, body⟩
  · rw [exec_detach_byProgram program, same] at executed
    cases executed
    rw [exec_detach_byProgram program, same]
  · rw [exec_detach_byProgram program, body] at executed
    cases executed
    have registered := registered_detachAt s g b
    obtain ⟨slot, -⟩ := detachAt_reads s g b
    have empty : (s.detachAt g b).slotAt g b = none := by rw [slot, if_pos ⟨rfl, rfl⟩]
    exact detachOfAnEmptySlotChangesNothing _ pin g b (registered_byProgram registered program)
      (detachAt_registrationInv g b inv) ((registered_locate registered pin).trans place) empty

/-- Settles O21: the mask bit is clear in both cases, since an empty slot has none set. -/
theorem disableOfADisabledPinChangesNothing : Obligations.DisableOfADisabledPinChangesNothing := by
  intro s pin g b program inv place off
  have disabled : bitAt (s.mask.get g) b = false := off.elim (mask_clear_of_empty inv) id
  rw [exec_disable_byProgram program, atPin_resolved place, disablePin_eq_self inv disabled]

/-! ### DISABLE and then ENABLE (R129) -/

/-- After DISABLE the group is off exactly when no other pin of it is enabled (R39, R112). -/
theorem groupEnabled_disablePin_eq_false_iff {s : State} {g : GroupIx} {b : BitIx} (inv : s.RegistrationInv)
    (present : s.cfg.hasGroup g = true) :
    (s.disablePin g b).groupEnabled g = false ↔ ∀ k, k ≠ b → bitAt (s.mask.get g) k = false := by
  have after := (registered_registrationInv (registered_disablePin s g b) present inv).enabledIffMasked g
  rw [← Bool.not_eq_true, after, not_not, regRead_mask]
  constructor
  · intro noneLeft k other
    have clear := congrArg (bitAt · k) noneLeft
    rwa [bitAt_mask_disablePin, if_neg (fun own => other own.2.symm), bitAt_zero] at clear
  · intro others
    refine byte_ext fun k => ?_
    rw [bitAt_mask_disablePin, bitAt_zero]
    split
    · rfl
    · rename_i other
      exact others k fun own => other ⟨rfl, own.symm⟩

/-- Settles O22: DISABLE leaves the slot and the edge masks, so ENABLE finds the callback and sets the pin's bits
again. -/
theorem disableThenEnableResumes : Obligations.DisableThenEnableResumes := by
  intro s pin g b c program inv place populated
  have registered := registered_disablePin s g b
  have present := hasGroup_of_locate place
  have groups : (s.disablePin g b).groups = s.groups := by rw [disablePin_frame]
  have live : (s.disablePin g b).live = s.live := registered_live registered
  have still : (s.disablePin g b).slotAt g b = some c := (slotAt_congr groups g b).trans populated
  obtain ⟨slot, rise, fall, state, mask, -, enabled, -⟩ := enableAt_reads still
  refine ⟨s.disablePin g b, (s.disablePin g b).enableAt g b, ?_, ?_, groupEnabled_disablePin_eq_false_iff inv present,
    ?_, ?_, ?_, ?_, ?_, ?_⟩
  · rw [exec_disable_byProgram program, atPin_resolved place]
  · rw [exec_enable_byProgram (registered_byProgram registered program),
      atPin_resolved ((registered_locate registered pin).trans place)]
  · rw [slot, group_congr groups]
  · rw [rise, group_congr groups]
  · rw [fall, group_congr groups]
  · rw [regRead_mask, mask, if_pos ⟨rfl, rfl⟩]
  · rw [enabled, if_pos rfl, registered_cfg registered, present]
  · rw [state, if_pos ⟨rfl, rfl⟩, live, regRead_live]

/-! ### A registration command in a critical section (R101) -/

/-- The state with other values of GIE and CSSTACK. -/
def State.withSection (s : State) (x : Bool) (c : List Bool) : State := { s with gie := x, csStack := c }

theorem enterSection_eq_withSection (s : State) : s.enterSection = s.withSection false (s.gie :: s.csStack) := rfl

section
variable (s : State) (x : Bool) (c : List Bool) (g : GroupIx) (b : BitIx)

theorem attachAt_withSection (mode : ModeField) :
    (s.withSection x c).attachAt mode g b = (s.attachAt mode g b).withSection x c := by
  cases port : s.portFn with
  | none => rw [attachAt_none port, attachAt_none (s := s.withSection x c) port]
  | some fn => rw [attachAt_some port, attachAt_some (s := s.withSection x c) port]; rfl

theorem disablePin_withSection : (s.withSection x c).disablePin g b = (s.disablePin g b).withSection x c :=
  disablePin_section s g b x c

theorem detachAt_withSection : (s.withSection x c).detachAt g b = (s.detachAt g b).withSection x c :=
  disablePin_withSection ((s.putSlot g b none).putEdges g b false false) x c g b

theorem enableAt_withSection : (s.withSection x c).enableAt g b = (s.enableAt g b).withSection x c := by
  cases slot : s.slotAt g b with
  | none => rw [enableAt_none slot, enableAt_none (s := s.withSection x c) slot]
  | some cb => rw [enableAt_some slot, enableAt_some (s := s.withSection x c) slot]; rfl

theorem atPin_withSection (pin : PinId) {body body' : GroupIx → BitIx → State}
    (commutes : ∀ g b, body' g b = (body g b).withSection x c) :
    (s.withSection x c).atPin pin body' = (s.atPin pin body).withSection x c := by
  cases place : s.locate pin with
  | none => rw [atPin_unresolved place, atPin_unresolved (s := s.withSection x c) place]
  | some at_gb => rw [atPin_resolved place, atPin_resolved (s := s.withSection x c) place, commutes]

end

/-- A registration command neither reads nor writes GIE or CSSTACK. -/
theorem exec_withSection {s : State} {i : Instr} {pin : PinId} (program : s.byProgram)
    (operand : pinOperand i = some pin) (x : Bool) (c : List Bool) :
    exec i (s.withSection x c) = mapNext (State.withSection · x c) (exec i s) := by
  have program' : (s.withSection x c).byProgram := program
  cases i with
  | attach p mode =>
    rw [exec_attach_byProgram program, exec_attach_byProgram program',
      atPin_withSection s x c p fun g b => attachAt_withSection s x c g b mode]
    rfl
  | detach p =>
    rw [exec_detach_byProgram program, exec_detach_byProgram program',
      atPin_withSection s x c p (detachAt_withSection s x c)]
    rfl
  | enable p =>
    rw [exec_enable_byProgram program, exec_enable_byProgram program',
      atPin_withSection s x c p (enableAt_withSection s x c)]
    rfl
  | disable p =>
    rw [exec_disable_byProgram program, exec_disable_byProgram program',
      atPin_withSection s x c p (disablePin_withSection s x c)]
    rfl
  | _ => cases operand

/-- What every registration command leaves alone, on all its paths. -/
theorem exec_registration_frame {s : State} {i : Instr} {pin : PinId} (program : s.byProgram)
    (operand : pinOperand i = some pin) :
    ∃ t, exec i s = .next t ∧
      t = { s with groups := t.groups, mask := t.mask, grpen := t.grpen, pend := t.pend, draws := t.draws } := by
  obtain ⟨t, executed, rfl | ⟨g, b, -, registered⟩⟩ := exec_registration program operand
  · exact ⟨_, executed, rfl⟩
  · exact ⟨t, executed, registered_frame registered⟩

/-- Settles O23: inside the section the command runs as it does alone, and CSEXIT puts back the GIE and CSSTACK that
CSENTER saved. -/
theorem registrationIsItsOwnCriticalSection : Obligations.RegistrationIsItsOwnCriticalSection := by
  intro s i pin program clear operand
  obtain ⟨t, executed, frame⟩ := exec_registration_frame program operand
  have gie : t.gie = s.gie := by rw [frame]
  have csStack : t.csStack = s.csStack := by rw [frame]
  have seq : t.seq = s.seq := by rw [frame]
  refine ⟨t, executed, ?_, gie, csStack, seq, by rw [frame]⟩
  have inside : exec i s.enterSection = .next (t.withSection false (s.gie :: s.csStack)) := by
    rw [enterSection_eq_withSection, exec_withSection program operand, executed]
    rfl
  have program' : (t.withSection false (s.gie :: s.csStack)).byProgram := by
    rw [frame]
    exact program
  have closed : exec .csexit (t.withSection false (s.gie :: s.csStack)) = .next t := by
    have restored : (s.gie && decide (t.seq = .idle)) = t.gie := by rw [seq, gie_restored clear, gie]
    rw [exec_csexit_byProgram program' rfl, ← csStack]
    exact congrArg (fun x => Host.Outcome.next { t with gie := x }) restored
  simp only [State.runCommands, exec_csenter_byProgram program, inside, closed]

end Machine

end Sys2Proof
end

section
/-! PROOFS, the critical section (41_critical_section.md): CSENTER, CSEXIT and SETGIE, balanced sections, and the dispatches
that a section keeps out. -/

namespace Sys2Proof.Machine

/-! ### CSENTER, CSEXIT and SETGIE (R141, R144, R145, R147, R149) -/

/-- Settles O24: what CSENTER leaves is the state with the section opened. -/
theorem csenterSavesAndMasks : Obligations.CsenterSavesAndMasks :=
  ⟨fun _ => decode_eq_command_iff_eq_encode, fun _ => exec_csenter_byProgram⟩

theorem exec_csexit_underflow {s : State} (program : s.byProgram) (noneOpen : s.csStack = []) :
    exec .csexit s = .next { s with fault := some (s.fault.getD (.csUnderflow s.issuer)) } := by
  simp only [exec, execCsexit, State.issued, mayIssue, byProgram_issuer program, if_true, State.exitSection, noneOpen,
    raise_eq]

/-- Settles O25: the value written to GIE is the saved one, unless a dispatch runs and the section saved 1 (log 15). -/
theorem csexitRestoresOrUnderflows : Obligations.CsexitRestoresOrUnderflows := by
  refine ⟨fun _ => decode_eq_command_iff_eq_encode, fun s program => ⟨fun saved rest innermost mainlineOrClear => ?_,
    exec_csexit_underflow program⟩⟩
  have restored : (saved && decide (s.seq = .idle)) = saved := by
    rcases mainlineOrClear with idle | clear
    · rw [decide_eq_true idle, Bool.and_true]
    · rw [clear, Bool.false_and]
  rw [exec_csexit_byProgram program innermost, restored]

theorem encode_setgie (e : Bool) : encode (.setgie e) = if e then 0x70000001#32 else 0x70000000#32 := by
  cases e <;> rfl

theorem exec_setgie_idle {s : State} (e : Bool) (mainline : s.issuer = .mainline) (idle : s.seq = .idle) :
    exec (.setgie e) s = .next { s with gie := e } := by
  simp [exec, execSetgie, State.issued, mayIssue, mainline, idle]

/-- Outside mainline context SETGIE is refused whoever issues it: by its own test for the mainline (R149), and for every
other agent as a command that R73 does not list for it (30_encoding.md R82). -/
theorem exec_setgie_dispatching {s : State} (e : Bool) (dispatching : s.seq ≠ .idle) :
    exec (.setgie e) s = .next { s with refused := some (s.refused.getD .wrongAgent) } := by
  cases lawful : mayIssue s.issuer (.setgie e) with
  | false => exact exec_of_not_mayIssue lawful
  | true => simp only [exec, execSetgie, State.issued, lawful, if_true, if_neg dispatching, refuse_eq]

/-- Settles O26: in mainline context SETGIE writes GIE for the mainline, and in a dispatch no issuer gets past the
refusal. -/
theorem setgieSemantics : Obligations.SetgieSemantics := by
  refine ⟨fun w e => ?_, fun s e => ⟨exec_setgie_idle e, fun _ => exec_setgie_dispatching e⟩⟩
  rw [decode_eq_command_iff_eq_encode, encode_setgie]

/-! ### Balanced sections (R150) -/

/-- `t` differs from `s` at most in what registration commands write: Group State, MASK, GRPEN, PEND and the count of
draws. -/
def State.RegistrationsOnly (s t : State) : Prop :=
  t = { s with groups := t.groups, mask := t.mask, grpen := t.grpen, pend := t.pend, draws := t.draws }

namespace State.RegistrationsOnly

theorem refl (s : State) : s.RegistrationsOnly s := rfl

variable {s t u : State}

theorem trans (first : s.RegistrationsOnly t) (second : t.RegistrationsOnly u) : s.RegistrationsOnly u := by
  calc u = { t with groups := u.groups, mask := u.mask, grpen := u.grpen, pend := u.pend, draws := u.draws } := second
    _ = { s with groups := u.groups, mask := u.mask, grpen := u.grpen, pend := u.pend, draws := u.draws } := by rw [first]

theorem byProgram (only : s.RegistrationsOnly t) (program : s.byProgram) : t.byProgram := by
  rw [only]
  exact program

theorem gieClearInDispatch (only : s.RegistrationsOnly t) (clear : s.gieClearInDispatch) : t.gieClearInDispatch := by
  rw [only]
  exact clear

end State.RegistrationsOnly

theorem enterSection_gieClearInDispatch (s : State) : s.enterSection.gieClearInDispatch := fun _ => rfl

/-- A registration command writes nothing but those, on all its paths. -/
theorem exec_registration_only {s : State} {i : Instr} {pin : PinId} (program : s.byProgram)
    (operand : pinOperand i = some pin) : ∃ t, exec i s = .next t ∧ s.RegistrationsOnly t :=
  exec_registration_frame program operand

section
variable {s u : State} (program : s.byProgram) (clear : s.gieClearInDispatch) (inside : s.enterSection.RegistrationsOnly u)

include inside

/-- Once the body of a section has left GIE and CSSTACK alone, putting back what CSENTER changed leaves both as they were
before it. -/
theorem registrationsOnly_closed : s.RegistrationsOnly (u.withSection s.gie s.csStack) := by
  rw [inside]
  rfl

include program clear

/-- The CSEXIT that matches puts back the GIE and CSSTACK that CSENTER found. -/
theorem exec_csexit_matching : exec .csexit u = .next (u.withSection s.gie s.csStack) := by
  have program' : u.byProgram := inside.byProgram program
  have csStack : u.csStack = s.gie :: s.csStack := by rw [inside]; rfl
  have seq : u.seq = s.seq := by rw [inside]; rfl
  have restored : (s.gie && decide (u.seq = .idle)) = s.gie := by rw [seq, gie_restored clear]
  rw [exec_csexit_byProgram program' csStack, restored]
  rfl

/-- A whole section, as far as its body runs through and leaves GIE and CSSTACK alone. -/
theorem runCommands_section {body : List Instr} (ran : State.runCommands body s.enterSection = .next u)
    (rest : List Instr) :
    State.runCommands (.csenter :: (body ++ .csexit :: rest)) s =
      State.runCommands rest (u.withSection s.gie s.csStack) := by
  calc State.runCommands (.csenter :: (body ++ .csexit :: rest)) s
      = State.runCommands (body ++ .csexit :: rest) s.enterSection := by
        simp only [State.runCommands, exec_csenter_byProgram program]
    _ = State.runCommands (.csexit :: rest) u := runCommands_append body _ _ _ ran
    _ = State.runCommands rest (u.withSection s.gie s.csStack) := by
        simp only [State.runCommands, exec_csexit_matching program clear inside]

end

/-- Balanced commands run through and write only what registration commands write: each inner section puts GIE and CSSTACK
back before the next command. -/
theorem balanced_runs {body : List Instr} (balanced : Balanced body) :
    ∀ s : State, s.byProgram → s.gieClearInDispatch →
      ∃ t, State.runCommands body s = .next t ∧ s.RegistrationsOnly t := by
  induction balanced with
  | nil => exact fun s _ _ => ⟨s, rfl, .refl s⟩
  | @registration i pin rest operand _ restRuns =>
    intro s program clear
    obtain ⟨u, executed, first⟩ := exec_registration_only program operand
    obtain ⟨t, ran, second⟩ := restRuns u (first.byProgram program) (first.gieClearInDispatch clear)
    exact ⟨t, by simp only [State.runCommands, executed, ran], first.trans second⟩
  | @nested inner rest _ _ innerRuns restRuns =>
    intro s program clear
    obtain ⟨u, ranInner, inside⟩ := innerRuns s.enterSection program (enterSection_gieClearInDispatch s)
    have closed := registrationsOnly_closed inside
    obtain ⟨t, ranRest, after⟩ := restRuns _ (closed.byProgram program) (closed.gieClearInDispatch clear)
    exact ⟨t, (runCommands_section program clear inside ranInner rest).trans ranRest, closed.trans after⟩

/-- Settles O27: a section around balanced commands is balanced itself, and what balanced commands write has none of GIE,
CSSTACK, the marks, the sequencer and TRACE in it. -/
theorem balancedSectionsRestore : Obligations.BalancedSectionsRestore := by
  intro s body program clear balanced
  obtain ⟨t, ran, only⟩ := balanced_runs (.nested balanced .nil) s program clear
  refine ⟨t, ran, ?_, ?_, ?_, ?_, ?_, ?_⟩ <;> rw [only]

/-! ### No dispatch starts in a section (R151) -/

theorem registered_seq {s t : State} {g : GroupIx} {b : BitIx} (registered : s.Registered t g b) : t.seq = s.seq := by
  rw [registered_frame registered]

/-- Settles O32: TAKE needs GIE, CBRET and the sequencer's other moves need a dispatch that runs, and no other effect
writes the sequencer. -/
theorem maskedSectionExcludesDispatch : Obligations.MaskedSectionExcludesDispatch := by
  intro s t stepped masked idle
  obtain ⟨r, chosen, effect⟩ := effect_of_step stepped
  have stillIdle : r.seq = .idle := chosen.seq.trans idle
  cases effect with
  | take g enabled => simp [takeEnabled_gie enabled] at masked
  | sample phase => cases idle.symm.trans phase
  | invoke phase _ _ => cases idle.symm.trans phase
  | skip phase => cases idle.symm.trans phase
  | cbret phase => cases idle.symm.trans phase
  | reti _ => rfl
  | register _ _ _ _ _ registered => exact (registered_seq registered).trans stillIdle
  | _ => exact stillIdle

end Sys2Proof.Machine
end

section
/-! PROOFS, pins and the Dispatch Routine (42_dispatch.md): PINWRITE and its request, the trigger set, SAMPLE, the loop bit
by bit, and whole dispatches with callbacks that return at once. -/

namespace Sys2Proof.Machine

/-! ### PINWRITE (R160) -/

/-- The word of PINWRITE as the number that its fields make at their bit places. -/
theorem encode_pinwrite (g : GroupIx) (v : Byte) :
    encode (.pinwrite g v) = BitVec.ofNat 32 (0x80000000 + 0x1000000 * g.val + v.toNat) := by
  apply BitVec.eq_of_toNat_eq
  have g_lt : g.val < 4 := g.isLt
  have v_lt : v.toNat < 256 := v.isLt
  simp only [encode, toNat_append_eq_add, BitVec.toNat_ofNat, BitVec.toNat_ofFin]
  omega

theorem exec_pinwrite_present {s : State} {g : GroupIx} (v : Byte) (issuer : s.issuer = .pinEnvironment)
    (present : s.cfg.hasGroup g = true) : exec (.pinwrite g v) s = .next (s.drivePins g v) := by
  simp [exec, execPinwrite, State.issued, mayIssue, issuer, present]

theorem live_drivePins (s : State) (g h : GroupIx) (v : Byte) :
    (s.drivePins g v).regRead (.live h) = if g = h then v else s.regRead (.live h) :=
  get_set_byGroup s.live g h v

theorem pending_drivePins (s : State) (g h : GroupIx) (v : Byte) :
    (s.drivePins g v).pending h =
      if g = h then s.pending g || requestDetected (s.regRead (.live g)) v (s.regRead (.mask g)) else s.pending h :=
  pending_latchRequest (s.regWrite (.live g) v) g h _

/-- Settles O28: a group that exists has its pins driven, and the request detector is read bit by bit; one that does not is
refused. -/
theorem pinwriteSemantics : Obligations.PinwriteSemantics := by
  refine ⟨fun w g v => by rw [decode_eq_command_iff_eq_encode, encode_pinwrite], fun s g v issuer => ⟨fun absent => ?_,
    fun present => ?_⟩⟩
  · exact exec_pinwrite_absent v issuer (decide_eq_false (Nat.not_lt.mpr absent))
  refine ⟨s.drivePins g v, exec_pinwrite_present v issuer (decide_eq_true present), ?_, ?_, fun h other => ⟨?_, ?_⟩, rfl⟩
  · rw [live_drivePins, if_pos rfl]
  · rw [pending_drivePins, if_pos rfl, Bool.or_eq_true_iff, requestDetected_iff]
  · rw [live_drivePins, if_neg other.symm]
  · rw [pending_drivePins, if_neg other.symm]

/-! ### CBRET (R168, R203) -/

section
variable {s : State} {g : GroupIx} {saved : Bool} {d : Nat} {trig lvl : Byte} {i : BitIx}
  (issuer : s.issuer = .callback) (phase : s.seq = .inCallback g saved d trig lvl i)
include issuer phase

theorem exec_cbret_atDepth (depth : s.csStack.length = d) :
    exec .cbret s = .next { s with seq := .invoke g saved d trig lvl i.succ } := by
  simp [exec, execCbret, State.issued, mayIssue, issuer, State.callbackReturn, phase, depth]

theorem exec_cbret_unbalanced (unbalanced : s.csStack.length ≠ d) :
    exec .cbret s = .next { s with fault := some (s.fault.getD (.csUnbalanced g)) } := by
  simp [exec, execCbret, State.issued, mayIssue, issuer, State.callbackReturn, phase, unbalanced, raise_eq]

end

/-- Settles O29: the depth of CSSTACK decides between the next bit and the fault. -/
theorem cbretSemantics : Obligations.CbretSemantics :=
  ⟨fun _ => decode_eq_command_iff_eq_encode,
    fun _ _ _ _ _ _ _ issuer phase => ⟨exec_cbret_atDepth issuer phase, exec_cbret_unbalanced issuer phase⟩⟩

/-! ### The trigger set (R164, R165) -/

/-- A bit triggers only on a change, and the edge mask of the new level's direction decides it. -/
theorem bitAt_triggerBits_eq_ite (r : GroupState) (new : Byte) (b : BitIx) :
    bitAt (triggerBits r new) b =
      if bitAt r.state b = bitAt new b then false else if bitAt new b then bitAt r.rise b else bitAt r.fall b := by
  rw [bitAt_triggerBits]
  cases bitAt r.state b <;> cases bitAt new b <;> rfl

/-- Settles O34: the trigger set of SAMPLE is `triggerBits`, read bit by bit. -/
theorem triggerSetBitByBit : Obligations.TriggerSetBitByBit := by
  intro s g saved d b
  exact ⟨triggerBits (s.group g) (s.regRead (.live g)), rfl, bitAt_triggerBits_eq_ite _ _ b⟩

/-- Settles O42: an empty slot has neither edge bit (10_state.md R38), so neither direction of a change triggers. -/
theorem emptySlotNeverTriggers : Obligations.EmptySlotNeverTriggers := by
  intro s g b new inv empty
  obtain ⟨noRise, noFall⟩ := inv.emptyHasNoEdge g b empty
  rw [bitAt_triggerBits_eq_ite, noRise, noFall, ite_self, ite_self]

/-- Settles O40: ATTACH leaves in the pin's two edge bits whether its mode wants a rise and whether it wants a fall. -/
theorem attachedModeDecidesTheTrigger : Obligations.AttachedModeDecidesTheTrigger := by
  intro s t pin mode g b observed new program place port executed
  obtain ⟨fn, port⟩ := Option.ne_none_iff_exists'.mp port
  rw [exec_attach_byProgram program, atPin_resolved place] at executed
  cases executed
  obtain ⟨-, rise, fall, -⟩ := attachAt_reads port mode g b
  have riseBit : bitAt ((s.attachAt mode g b).group g).rise b = decide (mode = .rising ∨ mode = .change) := by
    rw [rise, if_pos ⟨rfl, rfl⟩, wantsRise_eq]
  have fallBit : bitAt ((s.attachAt mode g b).group g).fall b = decide (mode = .falling ∨ mode = .change) := by
    rw [fall, if_pos ⟨rfl, rfl⟩, wantsFall_eq]
  rw [bitAt_triggerBits_eq_ite, riseBit, fallBit]
  cases bitAt observed b <;> cases bitAt new b <;> simp

/-! ### SAMPLE (R164) -/

/-- A sequencer's turn is the sequencer's move, once the turn is taken away. -/
theorem step_of_sequencerTurn {s t : State} {p : GroupIx} {ts : List Turn} (running : s.running)
    (turns : s.turns = .sequencer p :: ts) (moves : State.sequencerTurn { s with turns := ts } p = t) :
    step s = .next t := by
  rw [step_sequencer running turns, moves]

theorem step_sample {s : State} {p g : GroupIx} {saved : Bool} {d : Nat} {ts : List Turn} (running : s.running)
    (turns : s.turns = .sequencer p :: ts) (phase : s.seq = .entered g saved d) :
    step s = .next (State.sample { s with turns := ts } g saved d) :=
  step_of_sequencerTurn running turns (sequencerTurn_sample (s := { s with turns := ts }) phase p)

/-- SAMPLE leaves every callback table alone. -/
theorem slotAt_sample (s : State) (g h : GroupIx) (saved : Bool) (d : Nat) (b : BitIx) :
    (s.sample g saved d).slotAt h b = s.slotAt h b := by
  rw [State.slotAt, group_sample_frame, State.slotAt]

/-- Settles O33: the turn is a SAMPLE, which writes one group's `state` and the phase. -/
theorem sampleComputesTheTriggerSet : Obligations.SampleComputesTheTriggerSet := by
  intro s p g saved d ts running turns phase
  refine ⟨_, step_sample running turns phase, ?_, fun h other => ?_, rfl, rfl⟩
  · exact (group_sample _ g g saved d).trans (if_pos rfl)
  · exact (group_sample _ g h saved d).trans (if_neg other.symm)

/-! ### The Calls due in the loop (R166, R176) -/

/-- The Call event of the callback `c` of bit `i` at the sampled levels `lvl`. -/
def callOf (g : GroupIx) (lvl : Byte) (i : BitIx) (c : Callback) : CallEvent :=
  { g := g, b := i, fn := c.fn, arg := c.arg, level := bitAt lvl i }

/-- The Call event due for bit `i`, if it is triggered and has a callback. -/
def State.callDue (s : State) (g : GroupIx) (trig lvl : Byte) (i : BitIx) : Option CallEvent :=
  if bitAt trig i then (s.slotAt g i).map (callOf g lvl i) else none

theorem dueCalls_eq_filterMap (s : State) (g : GroupIx) (trig lvl : Byte) :
    s.dueCalls g trig lvl = (List.finRange 8).filterMap (s.callDue g trig lvl) := rfl

/-- The Calls due depend on the callback table alone. -/
theorem callDue_congr {s t : State} {g : GroupIx} (slots : ∀ i, t.slotAt g i = s.slotAt g i) (trig lvl : Byte) :
    t.callDue g trig lvl = s.callDue g trig lvl := by
  funext i
  rw [State.callDue, slots, State.callDue]

theorem callDue_of_invoked {s : State} {g : GroupIx} {trig : Byte} {i : BitIx} {c : Callback}
    (triggered : bitAt trig i = true) (slot : s.slotAt g i = some c) (lvl : Byte) :
    s.callDue g trig lvl i = some (callOf g lvl i c) := by
  rw [State.callDue, if_pos triggered, slot, Option.map_some]

theorem callDue_of_skipped {s : State} {g : GroupIx} {trig : Byte} {i : BitIx}
    (skipped : bitAt trig i = false ∨ s.slotAt g i = none) (lvl : Byte) : s.callDue g trig lvl i = none := by
  rcases skipped with untriggered | empty
  · rw [State.callDue, untriggered, if_neg Bool.false_ne_true]
  · rw [State.callDue, empty, Option.map_none, ite_self]

/-- A bit is triggered and has a callback, or it is skipped. -/
theorem invoked_or_skipped (s : State) (g : GroupIx) (trig : Byte) (i : BitIx) :
    (bitAt trig i = true ∧ ∃ c, s.slotAt g i = some c) ∨ (bitAt trig i = false ∨ s.slotAt g i = none) := by
  cases triggered : bitAt trig i with
  | false => exact .inr (.inl rfl)
  | true =>
    cases slot : s.slotAt g i with
    | none => exact .inr (.inr rfl)
    | some c => exact .inl ⟨rfl, c, rfl⟩

/-- Only triggered bits have a Call due. -/
theorem triggered_of_mem_dueCalls {s : State} {g : GroupIx} {trig lvl : Byte} {e : CallEvent}
    (due : e ∈ s.dueCalls g trig lvl) : bitAt trig e.b = true := by
  obtain ⟨i, -, called⟩ := List.mem_filterMap.mp (dueCalls_eq_filterMap s g trig lvl ▸ due)
  rcases invoked_or_skipped s g trig i with ⟨triggered, c, slot⟩ | skipped
  · rw [callDue_of_invoked triggered slot] at called
    cases called
    exact triggered
  · rw [callDue_of_skipped skipped] at called
    cases called

/-- Settles O43: SAMPLE gives the bit its own live level again, and a bit without a change is not triggered. -/
theorem unchangedPinIsNotDisturbed : Obligations.UnchangedPinIsNotDisturbed := by
  intro s t p g saved d b ts running turns phase unchanged stepped
  rw [step_sample running turns phase] at stepped
  cases stepped
  have untriggered : bitAt (triggerBits (s.group g) (s.regRead (.live g))) b = false := by
    rw [bitAt_triggerBits_eq_ite, if_pos unchanged]
  refine ⟨?_, _, _, rfl, untriggered, fun e due same => ?_⟩
  · rw [group_sample, if_pos rfl]
    exact unchanged.symm
  · have triggered := triggered_of_mem_dueCalls due
    rw [same] at triggered
    cases untriggered.symm.trans triggered

/-! ### One turn in the loop (R166 to R168, R210) -/

section
variable {s : State} {p g : GroupIx} {saved : Bool} {d : Nat} {trig lvl : Byte} {i : BitIx} {ts : List Turn}
  (running : s.running)
include running

theorem step_invoke {c : Callback} (turns : s.turns = .sequencer p :: ts)
    (phase : s.seq = .invoke g saved d trig lvl i.castSucc) (triggered : bitAt trig i = true)
    (slot : s.slotAt g i = some c) :
    step s = .next { s with
      turns := ts, seq := .inCallback g saved d trig lvl i, trace := s.trace ++ [callOf g lvl i c] } :=
  step_of_sequencerTurn running turns (sequencerTurn_invoke (s := { s with turns := ts }) phase triggered slot p)

theorem step_skip (turns : s.turns = .sequencer p :: ts) (phase : s.seq = .invoke g saved d trig lvl i.castSucc)
    (skipped : bitAt trig i = false ∨ s.slotAt g i = none) :
    step s = .next { s with turns := ts, seq := .invoke g saved d trig lvl i.succ } :=
  step_of_sequencerTurn running turns (sequencerTurn_skip (s := { s with turns := ts }) phase skipped p)

/-- The callback's turn, where its next command is the CBRET that goes on with the loop. -/
theorem step_cbret {rest : List Command} (turns : s.turns = .callback :: ts)
    (phase : s.seq = .inCallback g saved s.csStack.length trig lvl i) (cmds : s.callbackCmds = cbretCommand :: rest) :
    step s = .next { State.present { s with turns := ts, callbackCmds := rest } .callback cbretCommand with
      seq := .invoke g saved s.csStack.length trig lvl i.succ } := by
  have runs : s.callbackRuns = true := by rw [State.callbackRuns, phase]
  rw [step_callback running turns cmds runs, issue_command (decode_encode .cbret)]
  exact exec_cbret_atDepth rfl phase rfl

theorem step_reti (turns : s.turns = .sequencer p :: ts)
    (phase : s.seq = .invoke g saved s.csStack.length trig lvl 8) :
    step s = .next { s with turns := ts, gie := saved, seq := .idle } :=
  step_of_sequencerTurn running turns ((sequencerTurn_reti (s := { s with turns := ts }) phase p).trans (if_pos rfl))

end

/-- Settles O35: INVOKE and SKIP are the two moves of the sequencer's turn at a bit. -/
theorem loopInvokesOrSkips : Obligations.LoopInvokesOrSkips :=
  fun _ _ _ _ _ _ _ _ _ running turns phase =>
    ⟨fun _ => step_invoke running turns phase, step_skip running turns phase⟩

/-! ### The loop with callbacks that return at once (R176) -/

/-- `t` is `s` with `calls` appended to TRACE, but for the phase, the schedule and the command port. -/
def State.Delivers (s t : State) (calls : List CallEvent) : Prop :=
  t = { s with
    trace := s.trace ++ calls, seq := t.seq, turns := t.turns, callbackCmds := t.callbackCmds, issuer := t.issuer,
    portFn := t.portFn, portArg := t.portArg }

namespace State.Delivers

theorem refl (s : State) : s.Delivers s [] := by
  rw [State.Delivers, List.append_nil]

variable {s t u : State} {calls more : List CallEvent}

theorem trans (first : s.Delivers t calls) (second : t.Delivers u more) : s.Delivers u (calls ++ more) := by
  rw [State.Delivers, ← List.append_assoc]
  rw [State.Delivers] at second
  rw [second, first]

theorem callDue (delivered : s.Delivers t calls) (g : GroupIx) (trig lvl : Byte) :
    t.callDue g trig lvl = s.callDue g trig lvl :=
  callDue_congr (slotAt_congr (by rw [delivered]) g) trig lvl

end State.Delivers

/-- `s` runs in the loop of a dispatch of group `g` at bit `i`, at the depth that TAKE found, with the turns `ts` to come and
at least `n` callbacks left that return at once. -/
structure State.LoopAt (s : State) (g : GroupIx) (saved : Bool) (trig lvl : Byte) (i : Fin 9) (ts : List Turn) (n : Nat) :
    Prop where
  running : s.running
  phase : s.seq = .invoke g saved s.csStack.length trig lvl i
  turns : s.turns = ts
  returns : ∃ m, n ≤ m ∧ s.callbackCmds = List.replicate m cbretCommand

theorem runSteps_add {s t : State} {m : Nat} (ran : runSteps m s = .next t) (n : Nat) :
    runSteps (m + n) s = runSteps n t := by
  induction m generalizing s with
  | zero =>
    cases ran
    rw [Nat.zero_add]
  | succ m ih =>
    rw [Nat.succ_add]
    simp only [runSteps] at ran ⊢
    split at ran
    · exact ih ran
    · cases ran
    · cases ran

section
variable {s : State} {g : GroupIx} {saved : Bool} {trig lvl : Byte} {ts : List Turn} {n : Nat}

/-- The two turns of one bit: INVOKE and the callback's CBRET, or SKIP and a callback's turn that passes (log 2). -/
theorem runSteps_bit {i : BitIx} {p : GroupIx}
    (loop : s.LoopAt g saved trig lvl i.castSucc (.sequencer p :: .callback :: ts) (n + 1)) :
    ∃ t, runSteps 2 s = .next t ∧ s.Delivers t (s.callDue g trig lvl i).toList ∧
      t.LoopAt g saved trig lvl i.succ ts n := by
  obtain ⟨running, phase, turns, m, enough, cmds⟩ := loop
  rcases invoked_or_skipped s g trig i with ⟨triggered, c, slot⟩ | skipped
  · obtain ⟨k, rfl⟩ : ∃ k, m = k + 1 := ⟨m - 1, by omega⟩
    have invoked := step_invoke running turns phase triggered slot
    have returned := step_cbret
      (s := { s with
        turns := .callback :: ts, seq := .inCallback g saved s.csStack.length trig lvl i,
        trace := s.trace ++ [callOf g lvl i c] })
      running rfl rfl cmds
    refine ⟨_, (runSteps_next 1 invoked).trans (runSteps_next 0 returned), ?_, running, rfl, rfl, k, by omega, rfl⟩
    rw [callDue_of_invoked triggered slot]
    rfl
  · have skips := step_skip running turns phase skipped
    have passes := step_callback_idle
      (s := { s with turns := .callback :: ts, seq := .invoke g saved s.csStack.length trig lvl i.succ }) running rfl rfl
    refine ⟨_, (runSteps_next 1 skips).trans (runSteps_next 0 passes), ?_, running, rfl, rfl, m, by omega, cmds⟩
    rw [callDue_of_skipped skipped, State.Delivers, Option.toList_none, List.append_nil]

/-- The bits from `i` on are the bit `i` and those after it. -/
theorem filterMap_drop_finRange {α : Type} (f : BitIx → Option α) (i : BitIx) :
    ((List.finRange 8).drop i.val).filterMap f = (f i).toList ++ ((List.finRange 8).drop (i.val + 1)).filterMap f := by
  have inRange : i.val < (List.finRange 8).length := by simp
  rw [List.drop_eq_getElem_cons inRange, List.getElem_finRange, List.filterMap_eq_flatMap_toList, List.flatMap_cons,
    ← List.filterMap_eq_flatMap_toList]
  rfl

/-- The loop from bit `i` to its end, by induction on the number of bits left. -/
theorem runSteps_bits (left : Nat) : ∀ (s : State) (i : Fin 9), i.val + left = 8 →
    s.LoopAt g saved trig lvl i ((List.replicate left [Turn.sequencer 0, Turn.callback]).flatten ++ ts) left →
    ∃ t, runSteps (2 * left) s = .next t ∧
      s.Delivers t (((List.finRange 8).drop i.val).filterMap (s.callDue g trig lvl)) ∧
      t.LoopAt g saved trig lvl 8 ts 0 := by
  induction left with
  | zero =>
    intro s i last loop
    obtain rfl : i = 8 := Fin.ext last
    exact ⟨s, rfl, .refl s, loop⟩
  | succ left ih =>
    intro s i bits loop
    obtain ⟨b, rfl⟩ : ∃ b : BitIx, i = b.castSucc := ⟨⟨i.val, by omega⟩, rfl⟩
    obtain ⟨u, ranBit, first, atNext⟩ := runSteps_bit loop
    obtain ⟨t, ranRest, rest, atEnd⟩ := ih u b.succ (by rw [Fin.val_succ, Nat.succ_add]; exact bits) atNext
    refine ⟨t, ?_, ?_, atEnd⟩
    · rw [Nat.mul_succ, Nat.add_comm, runSteps_add ranBit, ranRest]
    · rw [first.callDue] at rest
      exact filterMap_drop_finRange (s.callDue g trig lvl) b ▸ first.trans rest

end

/-- Settles O38: the loop runs through its eight bits and delivers the Call due for each, and RETI ends the dispatch. -/
theorem loopDeliversTheDueCalls : Obligations.LoopDeliversTheDueCalls := by
  intro s g saved trig lvl ts running phase turns cmds
  have start : s.LoopAt g saved trig lvl 0 (loopTurns ++ ts) 8 := ⟨running, phase, turns, 8, le_rfl, cmds⟩
  rw [loopTurns, List.append_assoc] at start
  obtain ⟨u, ran, delivered, atEnd⟩ := runSteps_bits 8 s 0 rfl start
  have returned := step_reti atEnd.running atEnd.turns atEnd.phase
  refine ⟨_, (runSteps_add ran 1).trans (runSteps_next 0 returned), ?_⟩
  rw [delivered]
  exact ⟨rfl, rfl, rfl, rfl, rfl, rfl, rfl, rfl, rfl, rfl, running⟩

/-! ### A whole dispatch (R206, R164, R176, R210) -/

theorem step_take {s : State} {g : GroupIx} {ts : List Turn} (enabled : s.takeEnabled g = true)
    (turns : s.turns = .sequencer g :: ts) : step s = .next (State.take { s with turns := ts } g) :=
  step_of_sequencerTurn (takeEnabled_running enabled) turns (sequencerTurn_take enabled)

/-- What TAKE and SAMPLE leave of mainline context, for a dispatch of group `g`, with the turns `ts` to come. -/
def State.takenAndSampled (s : State) (g : GroupIx) (ts : List Turn) : State :=
  State.sample (State.take { s with turns := ts } g) g s.gie s.csStack.length

theorem runSteps_take_sample {s : State} {g p : GroupIx} {ts : List Turn} (enabled : s.takeEnabled g = true)
    (turns : s.turns = .sequencer g :: .sequencer p :: ts) (n : Nat) :
    runSteps (n + 2) s = runSteps n (s.takenAndSampled g ts) := by
  have running := takeEnabled_running enabled
  have sampled := step_sample (s := State.take { s with turns := .sequencer p :: ts } g) running rfl rfl
  rw [runSteps_next (n + 1) (step_take enabled turns), runSteps_next n sampled]
  rfl

section
variable (s : State) (g h : GroupIx) (ts : List Turn)

theorem group_takenAndSampled :
    (s.takenAndSampled g ts).group h =
      if g = h then { s.group g with state := s.regRead (.live g) } else s.group h := group_sample _ g h _ _

theorem slotAt_takenAndSampled (b : BitIx) : (s.takenAndSampled g ts).slotAt h b = s.slotAt h b := slotAt_sample _ g h _ _ b

theorem pending_takenAndSampled :
    (s.takenAndSampled g ts).pending h = if g = h then false else s.pending h := pending_clearRequest s g h

end

/-- Settles O39: TAKE clears the request and saves GIE, SAMPLE writes `state` and gives the trigger set, and the loop from
there delivers the Calls due. -/
theorem dispatchDeliversTheQualifyingEdges : Obligations.DispatchDeliversTheQualifyingEdges := by
  intro s g p ts enabled turns cmds
  have running := takeEnabled_running enabled
  have gieSet := takeEnabled_gie enabled
  obtain ⟨t, ran, trace, idle, gie, turnsLeft, groups, mask, grpen, live, pend, csStack, runs⟩ :=
    loopDeliversTheDueCalls (s.takenAndSampled g (loopTurns ++ ts)) g s.gie
      (triggerBits (s.group g) (s.regRead (.live g))) (s.regRead (.live g)) ts running rfl rfl cmds
  refine ⟨t, (runSteps_take_sample enabled turns 17).trans ran, ?_, idle, gie.trans gieSet, ?_, ?_,
    fun h other => ⟨?_, ?_⟩, mask, grpen, live, csStack, runs, turnsLeft⟩
  · rw [trace, dueCalls_eq_filterMap, callDue_congr (slotAt_takenAndSampled s g g (loopTurns ++ ts))]
    rfl
  · rw [pending_congr pend, pending_takenAndSampled, if_pos rfl]
  · rw [group_congr groups, group_takenAndSampled, if_pos rfl]
  · rw [group_congr groups, group_takenAndSampled, if_neg other.symm]
  · rw [pending_congr pend, pending_takenAndSampled, if_neg other.symm]

end Sys2Proof.Machine
end

section
/-! PROOFS, the entry into the interrupt and the return from it (60_exceptions.md): TAKE, RETI, and GIE over a whole
dispatch. -/

namespace Sys2Proof.Machine

/-! ### TAKE (R205, R206) -/

/-- The condition of R205, in a state that may step at all (10_state.md R36). -/
theorem takeEnabled_iff {s : State} {g : GroupIx} (running : s.running) (idle : s.seq = .idle) :
    s.takeEnabled g = true ↔ s.gie = true ∧ s.groupEnabled g = true ∧ s.pending g = true := by
  obtain ⟨noFault, noRefusal⟩ := running
  simp [State.takeEnabled, idle, noFault, noRefusal, and_assoc]

theorem pending_take (s : State) (g h : GroupIx) : (s.take g).pending h = if g = h then false else s.pending h :=
  pending_clearRequest s g h

/-- The sequencer's turn in mainline context, for a group whose TAKE is not enabled (log 2). -/
theorem step_not_taken {s : State} {g : GroupIx} {ts : List Turn} (running : s.running)
    (turns : s.turns = .sequencer g :: ts) (idle : s.seq = .idle) (disabled : s.takeEnabled g = false) :
    step s = .next { s with turns := ts } :=
  step_of_sequencerTurn running turns (sequencerTurn_not_taken (s := { s with turns := ts }) idle disabled)

/-- Settles O30: in a running state in mainline context TAKE is enabled just under the condition of R205, and that decides
between TAKE and a turn that passes. -/
theorem takeEntersTheDispatch : Obligations.TakeEntersTheDispatch := by
  intro s g ts running turns idle
  rw [← takeEnabled_iff running idle]
  refine ⟨fun enabled => ?_, fun disabled => step_not_taken running turns idle (Bool.eq_false_iff.mpr disabled)⟩
  refine ⟨_, step_take enabled turns, ?_, fun h other => ?_, ?_⟩
  · rw [pending_take, if_pos rfl]
  · rw [pending_take, if_neg other.symm]
    rfl
  · rw [← takeEnabled_gie enabled]
    rfl

/-- CBRET and the sequencer's moves other than TAKE need a dispatch that runs, and no other effect writes the sequencer. -/
theorem idle_or_take_of_effect {s r t : State} (chosen : s.Scheduled r) (effect : s.Effect r t) (idle : s.seq = .idle) :
    t.seq = .idle ∨ ∃ g, s.takeEnabled g = true ∧ t = r.take g := by
  have stillIdle : r.seq = .idle := chosen.seq.trans idle
  cases effect with
  | take g enabled => exact .inr ⟨g, enabled, rfl⟩
  | sample phase => cases idle.symm.trans phase
  | invoke phase _ _ => cases idle.symm.trans phase
  | skip phase => cases idle.symm.trans phase
  | cbret phase => cases idle.symm.trans phase
  | reti phase => cases idle.symm.trans phase
  | register _ _ _ _ _ registered => exact .inl ((registered_seq registered).trans stillIdle)
  | _ => exact .inl stillIdle

/-- Settles O31: TAKE is the only effect that leaves mainline context, and a group that is enabled exists. -/
theorem dispatchStartsOnlyByTake : Obligations.DispatchStartsOnlyByTake := by
  intro s t stepped idle started
  obtain ⟨r, chosen, effect⟩ := effect_of_step stepped
  rcases idle_or_take_of_effect chosen effect idle with stillIdle | ⟨g, enabled, rfl⟩
  · exact absurd stillIdle started
  · have running := takeEnabled_running enabled
    obtain ⟨gieSet, groupEnabled, requested⟩ := (takeEnabled_iff running idle).mp enabled
    refine ⟨g, hasGroup_of_groupEnabled groupEnabled, gieSet, groupEnabled, requested, running, ?_, rfl, ?_⟩
    · rw [← chosen.gie, ← chosen.csStack]
      rfl
    · rw [pending_take, if_pos rfl]

/-! ### RETI (R210, R203) -/

/-- R203: with no fault recorded yet, the one that is raised is the one that stays (R201). -/
theorem reti_unbalanced {s : State} (g : GroupIx) (saved : Bool) {d : Nat} (noFault : s.fault = none)
    (unbalanced : s.csStack.length ≠ d) : s.reti g saved d = { s with fault := some (.csUnbalanced g) } := by
  rw [State.reti, if_neg unbalanced, raise_eq, noFault, Option.getD_none]

theorem step_reti_unbalanced {s : State} {p g : GroupIx} {saved : Bool} {d : Nat} {trig lvl : Byte} {ts : List Turn}
    (running : s.running) (turns : s.turns = .sequencer p :: ts) (phase : s.seq = .invoke g saved d trig lvl 8)
    (unbalanced : s.csStack.length ≠ d) : step s = .next { s with turns := ts, fault := some (.csUnbalanced g) } := by
  have returned := sequencerTurn_reti (s := { s with turns := ts }) phase p
  exact step_of_sequencerTurn running turns (returned.trans (reti_unbalanced g saved running.1 unbalanced))

/-- Settles O36: the depth of CSSTACK decides between the return and the fault, which nothing recorded before it hides. -/
theorem returnRestoresGie : Obligations.ReturnRestoresGie := by
  intro s p g saved d trig lvl ts running turns phase
  refine ⟨fun depth => ?_, step_reti_unbalanced running turns phase⟩
  subst depth
  exact step_reti running turns phase

/-! ### GIE over a whole dispatch (R211, R252; for CSEXIT log 15) -/

/-- In a dispatch the value that CSEXIT writes to GIE is 0, whatever the section saved. -/
theorem restored_in_dispatch {s : State} (dispatching : s.seq ≠ .idle) (saved : Bool) :
    (saved && decide (s.seq = .idle)) = false := by
  rw [decide_eq_false dispatching, Bool.and_false]

/-- Settles O58: the saved value reaches GIE only in mainline context. -/
theorem csexitInADispatchKeepsGieClear : Obligations.CsexitInADispatchKeepsGieClear := by
  intro s saved rest program dispatching innermost
  rw [exec_csexit_byProgram program innermost, restored_in_dispatch dispatching]

theorem reset_gieClearInDispatch : State.reset.gieClearInDispatch := fun _ => rfl

/-- Settles O59: TAKE and CSENTER clear GIE, CSEXIT leaves it 0 in a dispatch, RETI ends the dispatch, SETGIE runs outside
one alone, and no other effect writes GIE or starts a dispatch. -/
theorem everyStepKeepsGieClearInADispatch : Obligations.EveryStepKeepsGieClearInADispatch := by
  refine ⟨reset_gieClearInDispatch, fun s t clear stepped => ?_⟩
  obtain ⟨r, chosen, effect⟩ := effect_of_step stepped
  have stillClear : s.seq ≠ .idle → r.gie = false := fun dispatching => chosen.gie.trans (clear dispatching)
  have clearAfterChoice : r.gieClearInDispatch := fun dispatching => stillClear (chosen.seq ▸ dispatching)
  cases effect with
  | take | csenter => exact fun _ => rfl
  | csexit saved _ => exact fun dispatching => restored_in_dispatch (s := r) dispatching saved
  | reti phase => exact fun dispatching => absurd rfl dispatching
  | setgie e idle => exact fun dispatching => absurd (chosen.seq.trans idle) dispatching
  | sample phase => exact fun _ => stillClear (by simp [phase])
  | invoke phase _ _ => exact fun _ => stillClear (by simp [phase])
  | skip phase => exact fun _ => stillClear (by simp [phase])
  | cbret phase => exact fun _ => stillClear (by simp [phase])
  | register _ _ _ _ _ registered =>
    intro dispatching
    rw [registered_seq registered] at dispatching
    exact (registered_gie registered).trans (clearAfterChoice dispatching)
  | _ => exact clearAfterChoice

end Sys2Proof.Machine
end

section
/-! PROOFS, reset and hazards (70_reset_and_hazards.md): what reset leaves, the first edge after ATTACH, a dispatch that waits
for its callback, and the sequencer with no turn left. -/

namespace Sys2Proof.Machine

/-! ### The sequencer with no turn left (R255, R207; log 3, log 4) -/

theorem step_without_turns {s : State} (running : s.running) (turns : s.turns = []) : step s = .next s.ownStep := by
  rw [step, advance_of_running running, turns]

/-- Counting round from any group reaches every group (log 4). -/
theorem mem_counting_round (p g : GroupIx) : g ∈ [p, p + 1, p + 2, p + 3] := by
  revert p g
  decide

theorem takeEnabled_of_firstTakeable {s : State} {p g : GroupIx} (first : s.firstTakeable p = some g) :
    s.takeEnabled g = true := List.find?_some first

/-- No group is found just when none is takeable, wherever the count starts. -/
theorem firstTakeable_eq_none_iff {s : State} {p : GroupIx} :
    s.firstTakeable p = none ↔ ∀ g, s.takeEnabled g = false := by
  rw [State.firstTakeable, List.find?_eq_none]
  constructor
  · exact fun noneFound g => Bool.eq_false_of_not_eq_true (noneFound g (mem_counting_round p g))
  · exact fun disabled g _ => by simp [disabled g]

theorem ownStep_take {s : State} {g : GroupIx} (idle : s.seq = .idle)
    (first : s.firstTakeable (Config.groupOrder s.picks) = some g) :
    s.ownStep = { s.take g with picks := s.picks + 1 } := by
  simp only [State.ownStep, idle, first]

theorem ownStep_none_takeable {s : State} (idle : s.seq = .idle) (disabled : ∀ g, s.takeEnabled g = false) :
    s.ownStep = s := by
  simp only [State.ownStep, idle, firstTakeable_eq_none_iff.mpr disabled]

theorem ownStep_callbackRuns {s : State} (runs : s.callbackRuns = true) : s.ownStep = s := by
  cases phase : s.seq with
  | inCallback => simp only [State.ownStep, phase]
  | _ => simp [State.callbackRuns, phase] at runs

theorem ownStep_dispatching {s : State} (dispatching : s.seq ≠ .idle) (noCallback : s.callbackRuns = false) :
    s.ownStep = s.sequencerTurn 0 := by
  cases phase : s.seq with
  | idle => exact absurd phase dispatching
  | inCallback => simp [State.callbackRuns, phase] at noCallback
  | entered | invoke => simp only [State.ownStep, phase]

/-- In a dispatch the sequencer has an enabled step unless a callback runs (30_encoding.md R84). -/
theorem sequencerStep_dispatching {s : State} (dispatching : s.seq ≠ .idle) (noCallback : s.callbackRuns = false)
    (p : GroupIx) : ∃ u, s.sequencerStep p = some u := by
  cases phase : s.seq with
  | idle => exact absurd phase dispatching
  | inCallback => simp [State.callbackRuns, phase] at noCallback
  | entered g saved d => exact ⟨s.sample g saved d, by simp only [State.sequencerStep, phase]⟩
  | invoke g saved d trig lvl i =>
    simp only [State.sequencerStep, phase]
    split
    · exact ⟨_, rfl⟩
    · exact ⟨_, rfl⟩

theorem sequencerTurn_of_step {s u : State} {p : GroupIx} (moves : s.sequencerStep p = some u) :
    s.sequencerTurn p = u := by
  simp only [State.sequencerTurn, moves]

/-- Settles O37: with no turn left the step is the sequencer's own, which looks at every group before it lets TAKE pass, and
which in a dispatch is enabled unless a callback runs. -/
theorem sequencerActsWhenNoTurnIsLeft : Obligations.SequencerActsWhenNoTurnIsLeft := by
  intro s running turns
  rw [step_without_turns running turns]
  refine ⟨fun idle ⟨g, enabled⟩ => ?_, fun idle disabled => by rw [ownStep_none_takeable idle disabled],
    fun dispatching noCallback => ?_, fun runs => by rw [ownStep_callbackRuns runs]⟩
  · cases first : s.firstTakeable (Config.groupOrder s.picks) with
    | none => simp [firstTakeable_eq_none_iff.mp first g] at enabled
    | some h =>
      have chosen := takeEnabled_of_firstTakeable first
      refine ⟨h, _, chosen, rfl, ?_⟩
      rw [ownStep_take idle first, ← takeEnabled_gie chosen]
      rfl
  · obtain ⟨u, moves⟩ := sequencerStep_dispatching dispatching noCallback 0
    exact ⟨_, u, moves, rfl, (ownStep_dispatching dispatching noCallback).trans (sequencerTurn_of_step moves)⟩

/-! ### The first edge after ATTACH (R244) -/

/-- Settles O41: ATTACH samples the live level into the bit's `state`, and a bit whose `state` is its live level does not
trigger. -/
theorem noFalseFirstEdge : Obligations.NoFalseFirstEdge := by
  intro s t pin mode g b program place port executed
  obtain ⟨fn, port⟩ := Option.ne_none_iff_exists'.mp port
  rw [exec_attach_byProgram program, atPin_resolved place] at executed
  cases executed
  obtain ⟨-, -, -, state, -⟩ := attachAt_reads port mode g b
  have live : (s.attachAt mode g b).live = s.live := registered_live (registered_attachAt port mode g b)
  have sampled : bitAt ((s.attachAt mode g b).group g).state b = bitAt ((s.attachAt mode g b).regRead (.live g)) b := by
    rw [state, if_pos ⟨rfl, rfl⟩, regRead_live, live]
  rw [bitAt_triggerBits_eq_ite, if_pos sampled]

/-! ### A dispatch waits for its callback (R252, R168) -/

section
variable {s t : State} {g : GroupIx} {saved : Bool} {d : Nat} {trig lvl : Byte} {i : BitIx}
  (phase : s.seq = .inCallback g saved d trig lvl i)
include phase

/-- The sequencer has no enabled step while a callback runs (30_encoding.md R84). -/
theorem sequencerStep_inCallback (p : GroupIx) : s.sequencerStep p = none := by
  simp only [State.sequencerStep, phase]

/-- A callback that runs returns by CBRET alone, whatever instruction is executed. -/
theorem seq_exec_inCallback {j : Instr} (executed : exec j s = .next t) :
    t.seq = s.seq ∨ (j = .cbret ∧ mayIssue s.issuer j = true ∧ t.seq = .invoke g saved d trig lvl i.succ) := by
  rcases exec_effects executed with rfl | ⟨r, rfl⟩ | ⟨r, rfl⟩ | ⟨-, pin, h, b, -, -, registered⟩ | ⟨-, -, rfl⟩ |
    ⟨-, -, saved', rest, -, rfl⟩ | ⟨e, -, -, -, rfl⟩ | ⟨h, v, -, -, -, rfl⟩ |
    ⟨returns, lawful, h, saved', d', trig', lvl', k, running, rfl⟩
  case inr.inr.inr.inl => exact .inl (registered_seq registered)
  case inr.inr.inr.inr.inr.inr.inr.inr =>
    cases phase.symm.trans running
    exact .inr ⟨returns, lawful, rfl⟩
  all_goals exact .inl rfl

/-- While a callback runs, a step keeps the phase, or is the callback's CBRET. -/
theorem seq_step_inCallback (stepped : step s = .next t) :
    t.seq = s.seq ∨
    (t.seq = .invoke g saved d trig lvl i.succ ∧
      ∃ c, s.nextIssue = some (.callback, c) ∧ decode c.word = .command .cbret) := by
  obtain ⟨-, rfl | ⟨p, u, moved, -⟩ | ⟨a, c, issued, effect⟩⟩ := step_cases stepped
  · exact .inl rfl
  · rw [sequencerStep_inCallback (s := s.turnTaken) phase p] at moved
    cases moved
  · have kept := (fetched_scheduled issued).seq
    rcases effect with ⟨j, decoded, executed⟩ | ⟨k, -, rfl⟩
    · rcases seq_exec_inCallback (kept.trans phase) executed with same | ⟨rfl, lawful, next⟩
      · exact .inl (same.trans kept)
      · obtain ⟨issuer, -⟩ := nextIssue_issuer issued
        have callback : a = .callback := by simpa [mayIssue, issuer] using lawful
        exact .inr ⟨next, c, callback ▸ issued, decoded⟩
    · exact .inl kept

end

/-- Settles O60: a step that ends in the same phase or in the loop is still in the dispatch, where GIE stays 0, the
mainline's commands wait, and neither TAKE nor INVOKE has its phase. -/
theorem dispatchWaitsForTheCallback : Obligations.DispatchWaitsForTheCallback := by
  intro s t g saved d trig lvl i stepped phase clear
  have dispatching : s.seq ≠ .idle := by simp [phase]
  have moved := seq_step_inCallback phase stepped
  have stillDispatching : t.seq ≠ .idle := by
    rcases moved with same | ⟨next, -⟩
    · exact same ▸ dispatching
    · simp [next]
  obtain ⟨-, keepsClear⟩ := everyStepKeepsGieClearInADispatch
  refine ⟨keepsClear s t clear stepped stillDispatching, dispatchKeepsTheMainlinesCommands s t stepped dispatching,
    fun h requested => ?_, ?_, moved⟩
  · by_contra notRequested
    obtain ⟨enabled, -⟩ :=
      requestsAreClearedOnlyByTake s t h stepped requested (Bool.eq_false_of_not_eq_true notRequested)
    exact dispatching (takeEnabled_idle enabled)
  · rcases traceGrowsOnlyByInvoke s t stepped with kept | ⟨_, _, _, _, _, _, _, inLoop, -⟩
    · exact kept
    · cases phase.symm.trans inLoop

/-! ### What reset leaves (R240) -/

section
variable (cfg : Platform) (live : Vector Byte 4) (g : GroupIx)

theorem group_powerOn : (State.powerOn cfg live).group g = GroupState.reset := by
  simp [State.powerOn, State.group, Vector.get_eq_getElem]

theorem slotAt_powerOn (b : BitIx) : (State.powerOn cfg live).slotAt g b = none := by
  rw [State.slotAt, group_powerOn]
  simp [GroupState.reset, Vector.get_eq_getElem]

theorem mask_powerOn : (State.powerOn cfg live).mask.get g = 0x00#8 := by
  simp [State.powerOn, Vector.get_eq_getElem]

theorem pending_powerOn : (State.powerOn cfg live).pending g = false := by
  simp [State.powerOn, State.pending, Vector.get_eq_getElem]

theorem grpen_powerOn : (State.powerOn cfg live).regRead .grpen = 0x00#8 := BitVec.zero_and

end

/-- Each live register holds its own group's draw (log 6). -/
theorem live_reset (g : GroupIx) : State.reset.regRead (.live g) = Config.liveAtReset g :=
  match g with
  | 0 => rfl
  | 1 => rfl
  | 2 => rfl
  | 3 => rfl

/-- Settles O54: reset is power-on with the draws on the pins, and power-on fills each table with one value. -/
theorem resetState : Obligations.ResetState := by
  refine ⟨slotAt_powerOn _ _, fun g => ?_, grpen_powerOn _ _, rfl, rfl, rfl, rfl, rfl, rfl, live_reset⟩
  have group : State.reset.group g = GroupState.reset := group_powerOn _ _ g
  rw [group]
  exact ⟨rfl, rfl, rfl, mask_powerOn _ _ g, pending_powerOn _ _ g⟩

/-! ### No TAKE without an enabled group and GIE (R242, R205) -/

theorem groupEnabled_of_takeEnabled {s : State} {g : GroupIx} (enabled : s.takeEnabled g = true) :
    s.groupEnabled g = true := by
  obtain ⟨-, groupEnabled, -⟩ := (takeEnabled_iff (takeEnabled_running enabled) (takeEnabled_idle enabled)).mp enabled
  exact groupEnabled

theorem takeEnabled_eq_false {s : State} (off : (∀ g, s.groupEnabled g = false) ∨ s.gie = false) (g : GroupIx) :
    s.takeEnabled g = false := by
  refine Bool.eq_false_of_not_eq_true fun enabled => ?_
  rcases off with noGroup | masked
  · cases (noGroup g).symm.trans (groupEnabled_of_takeEnabled enabled)
  · cases masked.symm.trans (takeEnabled_gie enabled)

/-- Settles O55: TAKE needs its group's enable bit and GIE, and GIE is 0 at reset. -/
theorem noTakeAfterReset : Obligations.NoTakeAfterReset :=
  ⟨takeEnabled_eq_false (.inr rfl), fun _ => takeEnabled_eq_false⟩

end Sys2Proof.Machine
end
